-- ==== Sys2Proof/Word.lean ====
section
/-! DEFINITION. The word types of sha256_core (spec 00_scope.md rules R6 and R8): every value is unsigned. -/

namespace Sys2Proof

/-- WORD_BITS = 32: "an unsigned 32-bit integer" (R6, R8). -/
abbrev Word := BitVec 32

/-- A byte is an integer in [0, 2^8) (R8). -/
abbrev Byte := BitVec 8

/-- A Block: exactly 16 Words (R6, 10_state.md R23). -/
abbrev Block := Vector Word 16

/-- DOC's State H, and the working variables a to h: exactly 8 Words (R6, 10_state.md R24, R25). -/
abbrev Hash := Vector Word 8

/-- The MessageSchedule: 64 Words (R6, 10_state.md R26). -/
abbrev Schedule := Vector Word 64

end Sys2Proof
end

