-- ==== Sys2Proof/Machine/Functions.lean ====
section
/-! DEFINITION. The pure functions of sha256_word_ops (spec 40_word_ops.md rules R91 to R99), shared by the
commands and the engine. -/

namespace Sys2Proof.Machine

/-- `rotr(x, n) = (x >> n) | ((x × 2^(32−n)) mod 2^32)`, for `n < 32` (R91). -/
def rotr (x : Word) (n : Nat) : Word := (x >>> n) ||| (x <<< (32 - n))

/-- `shr(x, n) = x >> n`, zero-filled (R92). -/
def shr (x : Word) (n : Nat) : Word := x >>> n

/-- `ch(x, y, z) = (x & y) ^ (~x & z)` (R93). -/
def ch (x y z : Word) : Word := (x &&& y) ^^^ (~~~x &&& z)

/-- `maj(x, y, z) = (x&y) ^ (x&z) ^ (y&z)` (R94). -/
def maj (x y z : Word) : Word := (x &&& y) ^^^ (x &&& z) ^^^ (y &&& z)

/-- R95. -/
def bigSigma0 (x : Word) : Word := rotr x 2 ^^^ rotr x 13 ^^^ rotr x 22

/-- R96. -/
def bigSigma1 (x : Word) : Word := rotr x 6 ^^^ rotr x 11 ^^^ rotr x 25

/-- R97. -/
def smallSigma0 (x : Word) : Word := rotr x 7 ^^^ rotr x 18 ^^^ shr x 3

/-- R98. -/
def smallSigma1 (x : Word) : Word := rotr x 17 ^^^ rotr x 19 ^^^ shr x 10

/-- `addMod(x1, ..., xn) = (x1 + ... + xn) mod 2^32`: "The sum is formed exactly and reduced once" (R99). -/
def addMod (xs : List Word) : Word := BitVec.ofNat 32 (xs.map BitVec.toNat).sum

end Sys2Proof.Machine
end

