-- ==== Sys2Proof/Config.lean ====
section
/-! DEFINITION. What is fixed for the machine (spec 00_scope.md rule R6) and its two free values. -/

namespace Sys2Proof

/-- WINDOW_BYTES: byte offsets 0x000 to 0x1FF (R6, 20_memory.md R50). -/
def Config.windowBytes : Nat := 512

/-- BUS_DATA_BITS = 32, in bytes: the only access width (R6, 20_memory.md R52). -/
def Config.busBytes : Nat := 4

/-- ENGINE_STEPS_PER_BLOCK: 64 round steps and 1 feed-forward step (R6, 42_compressor.md R137). -/
def Config.engineStepsPerBlock : Nat := 65

/-- FREE VALUE (assumption log 2). "How many host steps come between engine steps is not fixed, and a model
leaves it free" (42_compressor.md R140). The `n`-th number drawn; it has no body, so nothing in Lean can say
what it is. That it is a `Nat` is the weak fairness of R140: the engine's next step always comes. -/
opaque Config.hostSlack : Nat → Nat

/-- FREE VALUE (assumption log 19). What a name of the host's program stands for while no `rd REG -> name` has bound it
(30_encoding.md R77): the spec states no value. It has no body. -/
opaque Config.unboundName : Nat → Word

end Sys2Proof
end

