-- ==== Sys2Proof/Machine/State.lean ====
section
/-! DEFINITION. The state of one sha256_core instance (spec 10_state.md rule R20), the host agent's pending
statements and the interleaving choice, and the state after reset (R43). -/

namespace Sys2Proof.Machine

/-- The error codes of 60_exceptions.md R172. The codes 8 to 15 are reserved and "`ERRCODE` never holds them"
(93_implementation_defined.md I11), so they are no values of this type (assumption log 5). -/
inductive ErrCode where
  /-- 0: no error recorded. -/
  | none
  /-- 1: R173. -/
  | illegalCmd
  /-- 2: R174. -/
  | shiftRange
  /-- 3: R175. -/
  | addCount
  /-- 4: R176. -/
  | busy
  /-- 5: R177. -/
  | sequence
  /-- 6: R178. -/
  | inputTooLarge
  /-- 7: reserved, never raised (R179). -/
  | malformedBlock
deriving DecidableEq, Repr

/-- The fields of `STATUS` (10_state.md R30). The reserved bits read 0 and are not held; the register is
read-only, so the word is computed at each read (`statusWord`). -/
structure Status where
  /-- R31. -/
  busy : Bool
  /-- R32. -/
  done : Bool
  /-- R33. -/
  msgOpen : Bool
  /-- R34. -/
  pend2 : Bool
  /-- R35. -/
  finalPend : Bool
  /-- R36. -/
  err : Bool
  /-- R36. -/
  multi : Bool
  /-- R36, 60_exceptions.md R172. -/
  errCode : ErrCode
  /-- R37: "the number of rounds completed on the current Block, 0 to 64"; "it never exceeds 64" (R41). -/
  round : Fin 65
deriving DecidableEq, Repr

/-- A `value` of a host statement (30_encoding.md R77): a number, or a name that an earlier `rd REG -> name` has bound, as
in program P2 of 95_test_vectors.md. Names are numbered (assumption log 17). -/
inductive HostVal where
  | lit (v : Word)
  | name (n : Nat)
deriving DecidableEq, Repr

/-- The three forms of `rd` (30_encoding.md R77): "the value may be bound as `rd REG -> name` or checked as
`rd REG == value`". -/
inductive ReadUse where
  /-- `rd REG`. -/
  | keep
  /-- `rd REG -> name`. -/
  | bind (n : Nat)
  /-- `rd REG == value`. -/
  | check (v : HostVal)
deriving DecidableEq, Repr

/-- What the host agent does next: a statement of 30_encoding.md R77 that reaches the window, or the external
reset event of 70_reset_and_hazards.md R190. `off` is a byte offset in the window and `width` a number of bytes:
an access of another width than 4 can be written down, and is refused (20_memory.md R52). A command statement is
the `write` to `CMD` it stands for. -/
inductive HostStmt where
  /-- `wr REG, value`: one `MemWrite`. -/
  | write (off width : Nat) (v : HostVal)
  /-- `rd REG`, `rd REG -> name` or `rd REG == value`: one `MemRead`, whose value the host keeps, binds or checks. -/
  | read (off width : Nat) (use : ReadUse)
  /-- `poll REG, mask, value`: repeat `x <- MemRead(off(REG), 4)` until `(x & mask) = value`. -/
  | poll (off : Nat) (mask value : HostVal)
  /-- The reset event, between two steps (assumption log 9). -/
  | reset
deriving DecidableEq, Repr

/-- One instance of sha256_core, and beside it the host agent that drives it. -/
structure State where
  /-- `OP[0..4]`, 10_state.md R21. -/
  op : Vector Word 5
  /-- `RESULT`, R22. -/
  result : Word
  /-- `M[0..15]`, the Block register, R23. -/
  m : Block
  /-- `LEN`, the bit-length absorbed since the last `INIT`, R28. -/
  len : BitVec 64
  /-- `H[0..7]`, the State register, R24. -/
  h : Hash
  /-- `WV[0..7]`, the working variables a to h, R25. -/
  wv : Hash
  /-- `W[0..63]`, the MessageSchedule, internal, R26. -/
  w : Schedule
  /-- `STATUS`, R30. -/
  status : Status
  /-- `CFG.UPPER`, R29; the other bits of `CFG` are RAZ/WI. -/
  cfgUpper : Bool
  /-- MODEL: the host's remaining statements, next first (assumption log 1). -/
  prog : List HostStmt
  /-- MODEL: the Words the host's `rd` statements have got, latest first (assumption log 1). -/
  reads : List Word
  /-- MODEL: the names the host's `rd REG -> name` statements have bound, latest first (assumption log 17). -/
  vars : List (Nat × Word)
  /-- MODEL: whether the host's `rd REG == value` checks held, latest first (assumption log 17). -/
  checks : List Bool
  /-- MODEL: choices of `slack` still to come; when there is none, `Config.hostSlack` chooses (log 2). -/
  lags : List Nat
  /-- MODEL: how many host steps may still come before the engine's next step while `BUSY = 1` (log 2). -/
  slack : Nat
  /-- MODEL: how many values have been drawn from `Config.hostSlack` (log 2). -/
  draws : Nat
deriving DecidableEq, Repr

/-- The machine never stops with a fault: "A 'fatal' error ... then execution continues" (93_implementation_defined.md
I3) and an error is a record in `STATUS` (60_exceptions.md R170, R182). -/
inductive Fault where
  /-- DOC's fatal assertion `MalformedBlock`. RAISED BY NOTHING: "the condition is never raised" (42_compressor.md
  R139, 60_exceptions.md R179). Kept so that "no step faults" is a statement about `step`. Safe. -/
  | malformedBlock
deriving DecidableEq, Repr

/-- Why the model has no transition. -/
inductive Refusal where
  /-- The instruction has no meaning in the model yet. Raised by a refused arm of `exec` alone; safe. -/
  | notModelled (mnemonic : String)
  /-- An access of another width than 32 bits: "A model refuses it" (20_memory.md R52). Raised by a host access;
  safe (assumption log 6). -/
  | accessWidth
  /-- An access with `off mod 4 ≠ 0` (R52). Raised by a host access; safe (assumption log 6). -/
  | misaligned
  /-- An offset outside 0x000 to 0x1FF: "it is not an access to this device" (93_implementation_defined.md I17).
  Raised by a host access; safe (assumption log 6). -/
  | outsideWindow
deriving DecidableEq, Repr

/-- `STATUS` after reset: 0 (10_state.md R43). -/
def Status.reset : Status where
  busy := false
  done := false
  msgOpen := false
  pend2 := false
  finalPend := false
  err := false
  multi := false
  errCode := .none
  round := 0

/-- Every field at its value of 10_state.md R43; the model's own fields at the values of logs 1, 2 and 17. -/
def State.reset : State where
  op := Vector.replicate 5 0
  result := 0
  m := Vector.replicate 16 0
  len := 0
  h := iv
  wv := Vector.replicate 8 0
  w := Vector.replicate 64 0
  status := Status.reset
  cfgUpper := false
  prog := []
  reads := []
  vars := []
  checks := []
  lags := []
  slack := 0
  draws := 0

end Sys2Proof.Machine
end

