-- ==== Sys2Proof/Machine/Flags.lean ====
section
/-! DEFINITION. `STATUS` and the error record (spec 10_state.md rules R30 to R37, 60_exceptions.md R171, R172).
WordOps set no flags (40_word_ops.md R90), so these are the only flags of the core. -/

namespace Sys2Proof.Machine

/-- The 4-bit value of a code (60_exceptions.md R172). -/
def ErrCode.value : ErrCode → BitVec 4
  | .none => 0
  | .illegalCmd => 1
  | .shiftRange => 2
  | .addCount => 3
  | .busy => 4
  | .sequence => 5
  | .inputTooLarge => 6
  | .malformedBlock => 7

/-- A flag as a Word: 1 or 0. -/
def flagWord (b : Bool) : Word := if b then 1 else 0

/-- The value a read of `STATUS` returns (10_state.md R30). -/
def statusWord (st : Status) : Word :=
  flagWord st.busy ||| flagWord st.done <<< 1 ||| flagWord st.msgOpen <<< 2 ||| flagWord st.pend2 <<< 3 |||
  flagWord st.finalPend <<< 4 ||| flagWord st.err <<< 5 ||| flagWord st.multi <<< 6 |||
  st.errCode.value.setWidth 32 <<< 8 ||| BitVec.ofNat 32 st.round.val <<< 16

/-- Error recording (60_exceptions.md R171): the first code is kept, a later one sets `MULTI`. -/
def Status.recordError (st : Status) (c : ErrCode) : Status :=
  if st.err = false then { st with err := true, errCode := c } else { st with multi := true }

/-- What `CLRERR` clears (44_system.md R161). -/
def Status.clearError (st : Status) : Status :=
  { st with err := false, multi := false, errCode := .none }

/-- The message is closed (60_exceptions.md R178). -/
def Status.closeMessage (st : Status) : Status := { st with msgOpen := false }

/-- `INIT`'s four fields (41_padder.md R113). -/
def Status.openMessage (st : Status) : Status :=
  { st with msgOpen := true, done := false, pend2 := false, finalPend := false }

/-- `FINAL`'s three fields (41_padder.md R115). -/
def Status.finalise (st : Status) (second : Bool) : Status :=
  { st with msgOpen := false, finalPend := true, pend2 := second }

/-- `Start()`'s two fields (42_compressor.md R131). -/
def Status.startBlock (st : Status) : Status := { st with round := 0, busy := true }

/-- The end of the last Block started (42_compressor.md R134): `BUSY <- 0`, and `DONE <- 1` where a `FINAL` waits. -/
def Status.finishBlock (st : Status) : Status :=
  if st.finalPend then { st with busy := false, finalPend := false, done := true }
  else { st with busy := false }

end Sys2Proof.Machine
end

