-- ==== Sys2Proof/Machine/Ops.lean ====
section
/-! DEFINITION. The named operations over the state: rejecting a command and the way back, writing `RESULT`,
bytes of the Block register, the length words, and `Start()` (spec 60_exceptions.md rules R170 to R183,
41_padder.md R112 to R116, 42_compressor.md R131). -/

namespace Sys2Proof.Machine

/-- REJECTING A COMMAND: the core's whole reaction to an error. "A rejected command does only two things: it
updates the error record (rule R171), and an `INPUT_TOO_LARGE` also closes the message (rule R178)" (60_exceptions.md
R170). Nothing is saved, no control moves (R182). -/
def reject (c : ErrCode) (s : State) : State :=
  match c with
  | .inputTooLarge => { s with status := (s.status.recordError c).closeMessage }
  | _ => { s with status := s.status.recordError c }

/-- The way back: "`CLRERR` ends the error record" (60_exceptions.md R183, 44_system.md R161). -/
def clearError (s : State) : State := { s with status := s.status.clearError }

/-- A WordOps command writes only `RESULT` (40_word_ops.md R90). -/
def setResult (v : Word) (s : State) : State := { s with result := v }

/-- How far the byte lane of Block byte `k` lies from bit 0: `24 − 8·(k mod 4)` (41_padder.md R112). -/
def laneShift (k : Fin 64) : Nat := 24 - 8 * (k.val % 4)

/-- `byte(M, k)` (41_padder.md R112). -/
def getByte (m : Block) (k : Fin 64) : Byte := (m[k.val / 4]).extractLsb' (laneShift k) 8

/-- `byte(M, k) <- b`: "changes only those 8 bits" (41_padder.md R112). -/
def putByte (m : Block) (k : Fin 64) (b : Byte) : Block :=
  m.set (k.val / 4)
    ((m[k.val / 4] &&& ~~~(0xFF#32 <<< laneShift k)) ||| (b.setWidth 32 <<< laneShift k))

/-- `LEN_HI = LEN[63:32]` (10_state.md R28). -/
def lenHi (len : BitVec 64) : Word := len.extractLsb' 32 32

/-- `LEN_LO = LEN[31:0]` (10_state.md R28). -/
def lenLo (len : BitVec 64) : Word := len.extractLsb' 0 32

/-- `(LEN >> 3) mod 64`: the position of the next byte in its Block (41_padder.md R114, R115). -/
def bytePos (len : BitVec 64) : Fin 64 := ⟨(len.toNat >>> 3) % 64, Nat.mod_lt _ (by decide)⟩

/-- `M[14] <- LEN[63:32]`, `M[15] <- LEN[31:0]` (41_padder.md R115, R116). -/
def putLength (m : Block) (len : BitVec 64) : Block := (m.set 14 (lenHi len)).set 15 (lenLo len)

/-- `for k in r+1..63: byte(M, k) <- 0x00` (41_padder.md R115). -/
def zeroAfter (m : Block) (r : Fin 64) : Block :=
  (List.finRange 64).foldl (fun m k => if r < k then putByte m k 0 else m) m

/-- The final partial Block that `FINAL` makes (41_padder.md R115): 0x80 at `r`, zeros, and the length where it fits. -/
def finalBlock (m : Block) (len : BitVec 64) : Block :=
  let r := bytePos len
  let padded := zeroAfter (putByte m r 0x80) r
  if r.val ≤ 55 then putLength padded len else padded

/-- The length-only Block (41_padder.md R116). -/
def lengthBlock (len : BitVec 64) : Block := putLength (Vector.replicate 16 0) len

/-- `Start()` (42_compressor.md R131): copies `M` to `W[0..15]` and `H` to `WV`, `ROUND <- 0`, `BUSY <- 1`. -/
def start (s : State) : State :=
  { s with
    w := Vector.ofFn fun t => if ht : t.val < 16 then s.m[t.val] else s.w[t.val]
    wv := s.h
    status := s.status.startBlock }

end Sys2Proof.Machine
end

