-- ==== Sys2Proof/Machine/Engine.lean ====
section
/-! DEFINITION. The engine agent's steps (spec 42_compressor.md rules R130 to R134, 41_padder.md R116). -/

namespace Sys2Proof.Machine

/-- `W[t]` for `t` in 16..63 (R132). -/
def scheduleWord (w : Schedule) (t : Fin 64) : Word :=
  addMod [smallSigma1 w[t.val - 2], w[t.val - 7], smallSigma0 w[t.val - 15], w[t.val - 16]]

/-- The schedule as round `t` sees it: `W[t]` is computed at the start of round step `t`, for `t ≥ 16` (R132). -/
def extendSchedule (w : Schedule) (t : Fin 64) : Schedule :=
  if 16 ≤ t.val then w.set t.val (scheduleWord w t) else w

/-- `T1` of a round (R133): 5 operands. -/
def temp1 (v : Hash) (k w : Word) : Word :=
  addMod [v[7], bigSigma1 v[4], ch v[4] v[5] v[6], k, w]

/-- `T2` of a round (R133): 2 operands. -/
def temp2 (v : Hash) : Word := addMod [bigSigma0 v[0], maj v[0] v[1] v[2]]

/-- The eight simultaneous writes of a round (R133). -/
def roundVars (v : Hash) (k w : Word) : Hash :=
  let t1 := temp1 v k w
  #v[addMod [t1, temp2 v], v[0], v[1], v[2], addMod [v[3], t1], v[4], v[5], v[6]]

/-- Round step `t` (R133). -/
def roundStep (t : Fin 64) (s : State) : State :=
  let w := extendSchedule s.w t
  { s with
    w := w
    wv := roundVars s.wv kRom[t] w[t]
    status := { s.status with round := t.succ } }

/-- `H[i] <- addMod(H[i], WV[i])` for each of the 8 positions (R134). -/
def addHash (h v : Hash) : Hash := Vector.ofFn fun i => addMod [h[i], v[i]]

/-- Feed-forward step (R134): adds `WV` to `H`, then starts the length-only Block or finishes. -/
def feedForward (s : State) : State :=
  let s := { s with h := addHash s.h s.wv }
  if s.status.pend2 then
    start { s with m := lengthBlock s.len, status := { s.status with pend2 := false } }
  else { s with status := s.status.finishBlock }

/-- The engine's step while `BUSY = 1` (R130): fixed by `STATUS.ROUND`. -/
def engineStep (s : State) : State :=
  if ht : s.status.round.val < 64 then roundStep ⟨s.status.round.val, ht⟩ s else feedForward s

end Sys2Proof.Machine
end

