-- ==== Sys2Proof/Syntax.lean ====
section
/-! DEFINITION. The 14 commands of spec 30_encoding.md rule R73 (spec/opcode_table.json), one constructor a row. -/

namespace Sys2Proof

/-- A command of the core. `n` is the field `N6` read as an unsigned integer and `b` the field `IMM8`
(30_encoding.md R72). A term's `n` may be any number, as the assembler's argument may: `Instr.wellFormed` is
the assembler's check that it fits the field (R77). -/
inductive Instr where
  /-- `NOP`, 44_system.md R160. -/
  | nop
  /-- `ROTR n`, 40_word_ops.md R100. -/
  | rotr (n : Nat)
  /-- `SHR n`, 40_word_ops.md R101. -/
  | shr (n : Nat)
  /-- `ADD n`, 40_word_ops.md R102. -/
  | add (n : Nat)
  /-- `CH`, 40_word_ops.md R103. -/
  | ch
  /-- `MAJ`, 40_word_ops.md R104. -/
  | maj
  /-- `BSIG0`, 40_word_ops.md R105. -/
  | bsig0
  /-- `BSIG1`, 40_word_ops.md R106. -/
  | bsig1
  /-- `SSIG0`, 40_word_ops.md R107. -/
  | ssig0
  /-- `SSIG1`, 40_word_ops.md R108. -/
  | ssig1
  /-- `INIT`, 41_padder.md R113. -/
  | init
  /-- `ABSORB b`, 41_padder.md R114. -/
  | absorb (b : Byte)
  /-- `FINAL`, 41_padder.md R115. -/
  | final
  /-- `CLRERR`, 44_system.md R161. -/
  | clrerr
deriving DecidableEq, Repr

end Sys2Proof
end

