-- ==== Sys2Proof/WellFormed.lean ====
section
/-! DEFINITION. Which commands encode: the assembler's check of spec 30_encoding.md rule R77. -/

namespace Sys2Proof

/-- "The assembler refuses an `n` outside 0..63 and a `b` outside 0..255, because they do not fit the field. It
does not refuse `ROTR 40`" (R77). The range of `b` is its type. -/
def Instr.wellFormed : Instr → Bool
  | .rotr n => n < 64
  | .shr n => n < 64
  | .add n => n < 64
  | .absorb _ => true
  | .nop => true
  | .ch => true
  | .maj => true
  | .bsig0 => true
  | .bsig1 => true
  | .ssig0 => true
  | .ssig1 => true
  | .init => true
  | .final => true
  | .clrerr => true

end Sys2Proof
end

