-- ==== Sys2Proof/Decode.lean ====
section
/-! DEFINITION. The command word `CMD32`: its fields, the decoder, the opcode map's rows and the encoder
(spec 30_encoding.md rules R70 to R76). -/

namespace Sys2Proof

/-- `OPC = v[7:0]` (R71). -/
def opcField (v : Word) : BitVec 8 := v.extractLsb' 0 8

/-- `IMM8 = v[15:8]` (R71). -/
def immField (v : Word) : BitVec 8 := v.extractLsb' 8 8

/-- `N6 = v[21:16]` (R71). -/
def n6Field (v : Word) : BitVec 6 := v.extractLsb' 16 6

/-- `RSV = v[31:22]` (R71). -/
def rsvField (v : Word) : BitVec 10 := v.extractLsb' 22 10

/-- Why a word is no command: the two checks of R74 that look at the word alone. Both reject with
`ILLEGAL_CMD` (60_exceptions.md R173); they are two places in the order of 60_exceptions.md R180. -/
inductive Illegal where
  /-- Check 1: `OPC` is not one of the 14 assigned opcodes. -/
  | unassignedOpcode
  /-- Check 2: a field that must be 0 is not. -/
  | nonzeroField
deriving DecidableEq, Repr

/-- What the decoder says of a word: the command it spells, or by name why it spells none. -/
inductive Decoded where
  | command (i : Instr)
  | illegal (why : Illegal)
deriving DecidableEq, Repr

/-- The opcode map (R73): the command an opcode and its operand fields select. -/
def commandOf (opc : BitVec 8) (imm : BitVec 8) (n : BitVec 6) : Option Instr :=
  match opc.toNat with
  | 0x00 => some .nop
  | 0x01 => some (.rotr n.toNat)
  | 0x02 => some (.shr n.toNat)
  | 0x03 => some (.add n.toNat)
  | 0x04 => some .ch
  | 0x05 => some .maj
  | 0x06 => some .bsig0
  | 0x07 => some .bsig1
  | 0x08 => some .ssig0
  | 0x09 => some .ssig1
  | 0x10 => some .init
  | 0x11 => some (.absorb imm)
  | 0x12 => some .final
  | 0x20 => some .clrerr
  | _ => none

/-- `IMM8` "must be 0" but for `ABSORB` (R70, R74 check 2). -/
def usesImm (i : Instr) : Bool :=
  match i with
  | .absorb _ => true
  | _ => false

/-- `N6` "must be 0" but for `ROTR`, `SHR` and `ADD` (R70, R74 check 2). -/
def usesN6 (i : Instr) : Bool :=
  match i with
  | .rotr _ => true
  | .shr _ => true
  | .add _ => true
  | _ => false

/-- Checks 1 and 2 of R74, in that order. The checks 3 to 7 look at the operand's range or at the state and
belong to the commands' meanings: `ROTR 40` is a command that encodes and is then rejected (R75, R77). -/
def decode (v : Word) : Decoded :=
  match commandOf (opcField v) (immField v) (n6Field v) with
  | none => .illegal .unassignedOpcode
  | some i =>
    if rsvField v ≠ 0 ∨ (immField v ≠ 0 ∧ usesImm i = false) ∨ (n6Field v ≠ 0 ∧ usesN6 i = false) then
      .illegal .nonzeroField
    else .command i

/-- The command a decoded word spells, if any. -/
def Decoded.toOption : Decoded → Option Instr
  | .command i => some i
  | .illegal _ => none

/-- The instruction the decoder reads from an instruction of `nbits` bits whose bits are `w`, numbered as
spec/opcode_table.json numbers them; every command is one 32-bit Word (R70, R76), and bits at and above
`nbits` are 0. -/
def decodeTableWord (nbits w : Nat) : Option Instr :=
  (decode (BitVec.ofNat 32 (w % 2 ^ nbits))).toOption

/-- The opcode of a command (R73, first column). -/
def Instr.opcode : Instr → BitVec 8
  | .nop => 0x00
  | .rotr _ => 0x01
  | .shr _ => 0x02
  | .add _ => 0x03
  | .ch => 0x04
  | .maj => 0x05
  | .bsig0 => 0x06
  | .bsig1 => 0x07
  | .ssig0 => 0x08
  | .ssig1 => 0x09
  | .init => 0x10
  | .absorb _ => 0x11
  | .final => 0x12
  | .clrerr => 0x20

/-- The word with the four fields of R70, from bit 31 down: `RSV` 0, `N6`, `IMM8`, `OPC`. -/
def cmd32 (n : BitVec 6) (imm : BitVec 8) (opc : BitVec 8) : Word :=
  (0#10 ++ n) ++ (imm ++ opc)

/-- The word the assembler writes for a command (R77): `match | n<<16`, `0x11 | b<<8`, or `match`. -/
def encode (i : Instr) : Word :=
  match i with
  | .rotr n => cmd32 (BitVec.ofNat 6 n) 0 i.opcode
  | .shr n => cmd32 (BitVec.ofNat 6 n) 0 i.opcode
  | .add n => cmd32 (BitVec.ofNat 6 n) 0 i.opcode
  | .absorb b => cmd32 0 b i.opcode
  | .nop => cmd32 0 0 i.opcode
  | .ch => cmd32 0 0 i.opcode
  | .maj => cmd32 0 0 i.opcode
  | .bsig0 => cmd32 0 0 i.opcode
  | .bsig1 => cmd32 0 0 i.opcode
  | .ssig0 => cmd32 0 0 i.opcode
  | .ssig1 => cmd32 0 0 i.opcode
  | .init => cmd32 0 0 i.opcode
  | .final => cmd32 0 0 i.opcode
  | .clrerr => cmd32 0 0 i.opcode

/-- The `match` and `mask` columns of R73, in the table's order. -/
def opcodeRows : List (Word × Word) :=
  [(0x00000000, 0xFFFFFFFF), (0x00000001, 0xFFC0FFFF), (0x00000002, 0xFFC0FFFF), (0x00000003, 0xFFC0FFFF),
   (0x00000004, 0xFFFFFFFF), (0x00000005, 0xFFFFFFFF), (0x00000006, 0xFFFFFFFF), (0x00000007, 0xFFFFFFFF),
   (0x00000008, 0xFFFFFFFF), (0x00000009, 0xFFFFFFFF), (0x00000010, 0xFFFFFFFF), (0x00000011, 0xFFFF00FF),
   (0x00000012, 0xFFFFFFFF), (0x00000020, 0xFFFFFFFF)]

/-- The place of a command's row in `opcodeRows`. -/
def Instr.row : Instr → Fin 14
  | .nop => 0
  | .rotr _ => 1
  | .shr _ => 2
  | .add _ => 3
  | .ch => 4
  | .maj => 5
  | .bsig0 => 6
  | .bsig1 => 7
  | .ssig0 => 8
  | .ssig1 => 9
  | .init => 10
  | .absorb _ => 11
  | .final => 12
  | .clrerr => 13

/-- "A word `v` selects mnemonic `X` exactly when `(v & mask_X) = match_X`" (R73). -/
def selectsRow (v : Word) (r : Fin 14) : Bool :=
  v &&& (opcodeRows[r]).2 == (opcodeRows[r]).1

end Sys2Proof
end

