-- ==== Sys2Proof/Machine/Digest.lean ====
section
/-! DEFINITION. The digest formatter: the read-only hexadecimal view of `H` (spec 43_digest_format.md rules R150 to
R156). -/

namespace Sys2Proof.Machine

/-- `hexchar(v, u)` (R151): ASCII codes. -/
def hexchar (v : BitVec 4) (upper : Bool) : Byte :=
  if v.toNat ≤ 9 then BitVec.ofNat 8 (0x30 + v.toNat)
  else if upper then BitVec.ofNat 8 (0x41 + (v.toNat - 10))
  else BitVec.ofNat 8 (0x61 + (v.toNat - 10))

/-- The digit `H[i div 8][31 − 4·(i mod 8) : 28 − 4·(i mod 8)]` (R152). -/
def hexDigit (h : Hash) (i : Fin 64) : BitVec 4 :=
  (h[i.val / 8]).extractLsb' (28 - 4 * (i.val % 8)) 4

/-- `char(i)` of the digest string (R152). -/
def hexCharAt (h : Hash) (upper : Bool) (i : Fin 64) : Byte := hexchar (hexDigit h i) upper

/-- `HEX[j]`: four characters, the first in bits 31:24 (R153). -/
def hexWord (h : Hash) (upper : Bool) (j : Fin 16) : Word :=
  ((hexCharAt h upper ⟨4 * j.val, by omega⟩ ++ hexCharAt h upper ⟨4 * j.val + 1, by omega⟩ : BitVec 16) ++
   (hexCharAt h upper ⟨4 * j.val + 2, by omega⟩ ++ hexCharAt h upper ⟨4 * j.val + 3, by omega⟩ : BitVec 16))

/-- The 64 characters of the digest string, contiguous, no separators (R152, R155). -/
def hexText (h : Hash) (upper : Bool) : List Byte :=
  (List.finRange 64).map (hexCharAt h upper)

/-- Byte `4i + m` of the raw digest: `H[i][31 − 8m : 24 − 8m]` (R156). -/
def digestByte (h : Hash) (n : Fin 32) : Byte :=
  (h[n.val / 4]).extractLsb' (24 - 8 * (n.val % 4)) 8

end Sys2Proof.Machine
end

