-- ==== Sys2Proof/Machine/Padder.lean ====
section
/-! DEFINITION. The padder's commands (spec 41_padder.md rules R113 to R115), with the checks 5 to 7 of
30_encoding.md R74 in their order. -/

namespace Sys2Proof.Machine

/-- What an accepted `INIT` does (R113). -/
def openMessage (s : State) : State :=
  { s with h := iv, len := 0, status := s.status.openMessage }

/-- What an accepted `ABSORB b` does (R114); the byte at position 63 completes the Block and starts it. -/
def absorbByte (b : Byte) (s : State) : State :=
  let k := bytePos s.len
  let s' := { s with m := putByte s.m k b, len := s.len + 8 }
  if k.val = 63 then start s' else s'

/-- What an accepted `FINAL` does (R115). -/
def finaliseMessage (s : State) : State :=
  start { s with
    m := finalBlock s.m s.len
    status := s.status.finalise (decide (55 < (bytePos s.len).val)) }

/-- `INIT` (R113): rejected with `BUSY` while the engine works (60_exceptions.md R176). -/
def execInit (s : State) : Host.Outcome State Fault Refusal :=
  if s.status.busy then .next (reject .busy s) else .next (openMessage s)

/-- `ABSORB b` (R114): the checks are `BUSY`, `SEQUENCE` (60_exceptions.md R177), and `INPUT_TOO_LARGE` if
`LEN + 8 > 2^64 − 1` (R117, 60_exceptions.md R178). -/
def execAbsorb (b : Byte) (s : State) : Host.Outcome State Fault Refusal :=
  if s.status.busy then .next (reject .busy s)
  else if s.status.msgOpen = false then .next (reject .sequence s)
  else if 2 ^ 64 - 1 < s.len.toNat + 8 then .next (reject .inputTooLarge s)
  else .next (absorbByte b s)

/-- `FINAL` (R115): the checks are `BUSY`, then `SEQUENCE`. -/
def execFinal (s : State) : Host.Outcome State Fault Refusal :=
  if s.status.busy then .next (reject .busy s)
  else if s.status.msgOpen = false then .next (reject .sequence s)
  else .next (finaliseMessage s)

end Sys2Proof.Machine
end

