-- ==== Sys2Proof/Machine/System.lean ====
section
/-! DEFINITION. The system commands (spec 44_system.md rules R160 and R161): accepted at any time. -/

namespace Sys2Proof.Machine

/-- `NOP` (R160): nothing. -/
def execNop (s : State) : Host.Outcome State Fault Refusal := .next s

/-- `CLRERR` (R161). -/
def execClrerr (s : State) : Host.Outcome State Fault Refusal := .next (clearError s)

end Sys2Proof.Machine
end

