-- ==== Sys2Proof/Machine/Operands.lean ====
section
/-! DEFINITION. Operand assembly (spec 30_encoding.md rule R72): Word operands come from `OP[0..4]`, bound per
command, read at the moment of the `CMD` write. -/

namespace Sys2Proof.Machine

/-- DOC's argument `x`: `OP[0]`. -/
def operandX (s : State) : Word := s.op[0]

/-- DOC's argument `y` of `CH` and `MAJ`: `OP[1]`. -/
def operandY (s : State) : Word := s.op[1]

/-- DOC's argument `z` of `CH` and `MAJ`: `OP[2]`. -/
def operandZ (s : State) : Word := s.op[2]

/-- The operands `OP[0], ..., OP[n−1]` of `ADD` with count `n`. -/
def addOperands (s : State) (n : Nat) : List Word := s.op.toList.take n

end Sys2Proof.Machine
end

