-- ==== Sys2Proof/Machine/WordOps.lean ====
section
/-! DEFINITION. The WordOps commands (spec 40_word_ops.md rules R90, R100 to R108). Each is accepted whatever
`STATUS.BUSY` is, reads only `OP` and its `N6`, and writes only `RESULT`, or records its rejection. -/

namespace Sys2Proof.Machine

/-- `ROTR n` (R100); `n ≥ 32` is rejected with `SHIFT_RANGE` (60_exceptions.md R174). -/
def execRotr (n : Nat) (s : State) : Host.Outcome State Fault Refusal :=
  if n < 32 then .next (setResult (rotr (operandX s) n) s) else .next (reject .shiftRange s)

/-- `SHR n` (R101); `n ≥ 32` is rejected with `SHIFT_RANGE`. -/
def execShr (n : Nat) (s : State) : Host.Outcome State Fault Refusal :=
  if n < 32 then .next (setResult (shr (operandX s) n) s) else .next (reject .shiftRange s)

/-- `ADD n` (R102); a count outside 2 to 5 is rejected with `ADD_COUNT` (60_exceptions.md R175). -/
def execAdd (n : Nat) (s : State) : Host.Outcome State Fault Refusal :=
  if 2 ≤ n ∧ n ≤ 5 then .next (setResult (addMod (addOperands s n)) s) else .next (reject .addCount s)

/-- `CH` (R103). -/
def execCh (s : State) : Host.Outcome State Fault Refusal :=
  .next (setResult (ch (operandX s) (operandY s) (operandZ s)) s)

/-- `MAJ` (R104). -/
def execMaj (s : State) : Host.Outcome State Fault Refusal :=
  .next (setResult (maj (operandX s) (operandY s) (operandZ s)) s)

/-- `BSIG0` (R105). -/
def execBsig0 (s : State) : Host.Outcome State Fault Refusal :=
  .next (setResult (bigSigma0 (operandX s)) s)

/-- `BSIG1` (R106). -/
def execBsig1 (s : State) : Host.Outcome State Fault Refusal :=
  .next (setResult (bigSigma1 (operandX s)) s)

/-- `SSIG0` (R107). -/
def execSsig0 (s : State) : Host.Outcome State Fault Refusal :=
  .next (setResult (smallSigma0 (operandX s)) s)

/-- `SSIG1` (R108). -/
def execSsig1 (s : State) : Host.Outcome State Fault Refusal :=
  .next (setResult (smallSigma1 (operandX s)) s)

end Sys2Proof.Machine
end

