-- ==== Sys2Proof/Machine/Window.lean ====
section
/-! DEFINITION. The register window: the register map, reads, writes, and the command port (spec 20_memory.md rules
R50 to R57, 30_encoding.md R74). -/

namespace Sys2Proof.Machine

/-- The registers of 20_memory.md R51, one for each of the 128 slots. -/
inductive Reg where
  | id
  | cmd
  | status
  | cfg
  | op (i : Fin 5)
  | result
  | lenHi
  | lenLo
  | reserved (i : Fin 4)
  | m (i : Fin 16)
  | h (i : Fin 8)
  | wv (i : Fin 8)
  | hex (j : Fin 16)
  | k (t : Fin 64)
deriving DecidableEq, Repr

/-- The byte offset of a register (R51). -/
def Reg.offset : Reg → Nat
  | .id => 0x000
  | .cmd => 0x004
  | .status => 0x008
  | .cfg => 0x00C
  | .op i => 0x010 + 4 * i.val
  | .result => 0x024
  | .lenHi => 0x028
  | .lenLo => 0x02C
  | .reserved i => 0x030 + 4 * i.val
  | .m i => 0x040 + 4 * i.val
  | .h i => 0x080 + 4 * i.val
  | .wv i => 0x0A0 + 4 * i.val
  | .hex j => 0x0C0 + 4 * j.val
  | .k t => 0x100 + 4 * t.val

/-- The register at slot number `n`, the offset divided by 4 (R50, R51). -/
def regOfSlot (n : Fin 128) : Reg :=
  if n.val = 0 then .id
  else if n.val = 1 then .cmd
  else if n.val = 2 then .status
  else if n.val = 3 then .cfg
  else if h4 : 4 ≤ n.val ∧ n.val < 9 then .op ⟨n.val - 4, by omega⟩
  else if n.val = 9 then .result
  else if n.val = 10 then .lenHi
  else if n.val = 11 then .lenLo
  else if hr : 12 ≤ n.val ∧ n.val < 16 then .reserved ⟨n.val - 12, by omega⟩
  else if hm : 16 ≤ n.val ∧ n.val < 32 then .m ⟨n.val - 16, by omega⟩
  else if hh : 32 ≤ n.val ∧ n.val < 40 then .h ⟨n.val - 32, by omega⟩
  else if hv : 40 ≤ n.val ∧ n.val < 48 then .wv ⟨n.val - 40, by omega⟩
  else if hx : 48 ≤ n.val ∧ n.val < 64 then .hex ⟨n.val - 48, by omega⟩
  else .k ⟨n.val - 64, by omega⟩

/-- The register an access reaches, or why the model refuses it: an access "of another width", outside 0x000..0x1FF
or with `off mod 4 ≠ 0` "spells no operation of this hardware" (R52, 93_implementation_defined.md I16, I17). -/
def regAt (off width : Nat) : Except Refusal Reg :=
  if width ≠ Config.busBytes then .error .accessWidth
  else if hw : off < 512 then
    if off % 4 ≠ 0 then .error .misaligned else .ok (regOfSlot ⟨off / 4, by omega⟩)
  else .error .outsideWindow

/-- The value a `MemRead` of a register returns (R51, R53, R54). `CMD` and the reserved slots read 0; the reserved
bits of `CFG` read 0 (10_state.md R29). -/
def readReg (r : Reg) (s : State) : Word :=
  match r with
  | .id => idWord
  | .cmd => 0
  | .status => statusWord s.status
  | .cfg => flagWord s.cfgUpper
  | .op i => s.op[i]
  | .result => s.result
  | .lenHi => Machine.lenHi s.len
  | .lenLo => Machine.lenLo s.len
  | .reserved _ => 0
  | .m i => s.m[i]
  | .h i => s.h[i]
  | .wv i => s.wv[i]
  | .hex j => hexWord s.h s.cfgUpper j
  | .k t => kRom[t]

/-- A word handed to the command decoder (10_state.md R39, 30_encoding.md R74): an illegal word is rejected with
`ILLEGAL_CMD`, any other is carried out, in the one host step. -/
def command (v : Word) (s : State) : Host.Outcome State Fault Refusal :=
  match decode v with
  | .illegal _ => .next (reject .illegalCmd s)
  | .command i => exec i s

/-- A `MemWrite` to a register: "has a side effect only at three offsets", `OP[i]`, `CFG` and `CMD` (R55); the
read-only registers and the reserved slots ignore it (R53, R54). -/
def writeReg (r : Reg) (v : Word) (s : State) : Host.Outcome State Fault Refusal :=
  match r with
  | .cmd => command v s
  | .cfg => .next { s with cfgUpper := v.getLsbD 0 }
  | .op i => .next { s with op := s.op.set i.val v }
  | .id => .next s
  | .status => .next s
  | .result => .next s
  | .lenHi => .next s
  | .lenLo => .next s
  | .reserved _ => .next s
  | .m _ => .next s
  | .h _ => .next s
  | .wv _ => .next s
  | .hex _ => .next s
  | .k _ => .next s

/-- `MemRead(off, width)`: the value, or the refusal. -/
def memRead (off width : Nat) (s : State) : Except Refusal Word :=
  match regAt off width with
  | .error e => .error e
  | .ok r => .ok (readReg r s)

/-- `MemWrite(off, width, v)`. -/
def memWrite (off width : Nat) (v : Word) (s : State) : Host.Outcome State Fault Refusal :=
  match regAt off width with
  | .error e => .refused e
  | .ok r => writeReg r v s

/-- The host address of a window offset, for a window at `base`, the OPEN parameter `SHA_BASE`: "A model takes it as
an argument" (R50, R64, 92_eei_decisions.md D43; assumption log 7). -/
def hostAddress (base off : Nat) : Nat := base + off

/-- The window offset of a host address, or none: "it is not an access to this device; the platform decides"
(93_implementation_defined.md I17). -/
def windowOffset (base addr : Nat) : Option Nat :=
  if base ≤ addr ∧ addr < base + Config.windowBytes then some (addr - base) else none

end Sys2Proof.Machine
end

