-- ==== Sys2Proof/Machine/Agents.lean ====
section
/-! DEFINITION. The two agents and which of them moves (spec 00_scope.md rule R11, 20_memory.md R58, 42_compressor.md
R130 and R140), the reset event (70_reset_and_hazards.md R190), and how a command word is put before the host. -/

namespace Sys2Proof.Machine

/-- The next number of host steps that may come before the engine's next step: FREE (assumption log 2). -/
def drawSlack (s : State) : State :=
  match s.lags with
  | n :: rest => { s with slack := n, lags := rest }
  | [] => { s with slack := Config.hostSlack s.draws, draws := s.draws + 1 }

/-- Whether the step is the engine's. It has an enabled step exactly when `BUSY = 1` (R130); it then moves when the
host has no statement left or when the host steps allowed before it are used up (R58, R140). -/
def engineTurn (s : State) : Bool := s.status.busy && (s.prog.isEmpty || s.slack == 0)

/-- The reset event: "sets every piece of state to its value in 10_state.md rule R43" (R190). The host's own program,
what it has read and the interleaving choices are no state of the core and stay (assumption log 9). -/
def resetCore (s : State) : State :=
  { State.reset with
    prog := s.prog, reads := s.reads, vars := s.vars, checks := s.checks, lags := s.lags, slack := s.slack
    draws := s.draws }

/-- The Word a `value` of a host statement stands for: the number, or what the latest `rd REG -> name` has bound to the
name (30_encoding.md R77); FREE while the name is unbound (assumption log 19). -/
def valueOf (x : HostVal) (s : State) : Word :=
  match x with
  | .lit v => v
  | .name n => (s.vars.lookup n).getD (Config.unboundName n)

/-- What the host does with a Word it has read: it keeps it, and binds it to a name or checks it (30_encoding.md R77). A
check that does not hold is recorded and the program goes on: "The `poll` statement is the host's only control flow"
(R77; assumption log 17). -/
def keepRead (use : ReadUse) (x : Word) (s : State) : State :=
  match use with
  | .keep => { s with reads := x :: s.reads }
  | .bind n => { s with reads := x :: s.reads, vars := (n, x) :: s.vars }
  | .check v => { s with reads := x :: s.reads, checks := decide (x = valueOf v s) :: s.checks }

/-- The state a host step works on: its statement is taken from the program, and while the engine is busy one of the
host steps allowed before the engine's next step is used. -/
def takeStmt (rest : List HostStmt) (s : State) : State :=
  { s with prog := rest, slack := if s.status.busy then s.slack - 1 else s.slack }

/-- One host step (30_encoding.md R77, 70_reset_and_hazards.md R190), on a state whose program is what follows `stmt`.
A `poll` whose value is not there yet stays in front of the program. So the reset event, a statement of the same list,
stands before or after a whole `poll` and never between two of its repeats, and a `poll` that follows it reads the core
after reset: DESIGN CHOICE, for the spec does not say what becomes of a `poll` under way when reset comes (assumption
log 9). -/
def hostStep (stmt : HostStmt) (s : State) : Host.Outcome State Fault Refusal :=
  match stmt with
  | .write off width v => memWrite off width (valueOf v s) s
  | .read off width use =>
    match memRead off width s with
    | .error e => .refused e
    | .ok x => .next (keepRead use x s)
  | .poll off mask value =>
    match memRead off Config.busBytes s with
    | .error e => .refused e
    | .ok x => if x &&& valueOf mask s = valueOf value s then .next s else .next { s with prog := stmt :: s.prog }
  | .reset => .next (resetCore s)

/-- A host step that started the idle engine: the number of host steps before its first step is drawn. -/
def armEngine (before after : State) : State :=
  if before.status.busy = false ∧ after.status.busy = true then drawSlack after else after

/-- The next state of an outcome, changed by `f`. -/
def mapNext (f : State → State) : Host.Outcome State Fault Refusal → Host.Outcome State Fault Refusal
  | .next s => .next (f s)
  | .fault r => .fault r
  | .refused r => .refused r

/-- The engine's step, and then the number of host steps before its next one is drawn. -/
def engineMove (s : State) : State := drawSlack (engineStep s)

/-- The host's step for the statement `stmt`, with `rest` after it. -/
def hostMove (stmt : HostStmt) (rest : List HostStmt) (s : State) : Host.Outcome State Fault Refusal :=
  mapNext (armEngine s) (hostStep stmt (takeStmt rest s))

/-- The state in which the host's very next step is the `MemWrite` of `v` to `CMD`: the statement is put first, and
while the engine is busy one more host step is allowed before the engine's next step. -/
def placeCommand (v : Word) (s : State) : State :=
  { s with
    prog := .write Reg.cmd.offset Config.busBytes (.lit v) :: s.prog
    slack := if s.status.busy then s.slack + 1 else s.slack }

end Sys2Proof.Machine
end

