-- ==== Sys2Proof/Machine/Step.lean ====
section
/-! DEFINITION. One step of the machine (spec 00_scope.md rule R11, 20_memory.md R58). -/

namespace Sys2Proof.Machine

/-- One atomic transition of one agent: the engine's step when it is its turn, else the host's next statement. With
no statement left and the engine idle no agent has a step, and "All state is kept" (60_exceptions.md R189; log 8). -/
def step (s : State) : Host.Outcome State Fault Refusal :=
  if engineTurn s then .next (engineMove s)
  else
    match s.prog with
    | [] => .next s
    | stmt :: rest => hostMove stmt rest s

/-- `s` with the command word `w` as the host's very next write to `CMD`, so that `step` carries it out. -/
def State.withFetchWord (s : State) (nbits w : Nat) : State :=
  placeCommand (BitVec.ofNat 32 (w % 2 ^ nbits)) s

end Sys2Proof.Machine
end

