-- ==== Sys2Proof/Machine/HostProgram.lean ====
section
/-! DEFINITION. The host's assembly statements and pseudo-instructions (spec 30_encoding.md rules R77 and R78), as
lists of host statements. -/

namespace Sys2Proof.Machine

/-- `wr REG, value` (R77). -/
def wr (r : Reg) (x : HostVal) : HostStmt := .write r.offset Config.busBytes x

/-- `rd REG` (R77). -/
def rd (r : Reg) : HostStmt := .read r.offset Config.busBytes .keep

/-- `rd REG -> name` (R77). -/
def rdBind (r : Reg) (n : Nat) : HostStmt := .read r.offset Config.busBytes (.bind n)

/-- `rd REG == value` (R77). -/
def rdCheck (r : Reg) (x : HostVal) : HostStmt := .read r.offset Config.busBytes (.check x)

/-- A command's statement: `MemWrite(0x004, 4, word)` (R77). -/
def cmdStmt (i : Instr) : HostStmt := wr .cmd (.lit (encode i))

/-- `WAIT`: `poll STATUS, 0x1, 0x0` (R78). -/
def waitStmt : HostStmt := .poll Reg.status.offset (.lit 1) (.lit 0)

/-- `ABSORBW b` (R78). -/
def absorbW (b : Byte) : List HostStmt := [waitStmt, cmdStmt (.absorb b)]

/-- `ABSORBS b0, ..., bk` (R78). -/
def absorbS (bs : List Byte) : List HostStmt := bs.flatMap absorbW

/-- `HASH b0, ..., bk` (R78); for zero bytes `ABSORBS` is empty. -/
def hashProg (bs : List Byte) : List HostStmt :=
  [waitStmt, cmdStmt .init] ++ absorbS bs ++ [waitStmt, cmdStmt .final, waitStmt]

/-- `SETOPS v0, ..., vk` with `k ≤ 4` (R78); a `v` may be a bound name. -/
def setOps (vs : Vector HostVal 5) (k : Fin 5) : List HostStmt :=
  ((List.finRange 5).filter (fun i => i ≤ k)).map fun i => wr (.op i) vs[i]

/-- `RDDIGEST`: `rd H0`, ..., `rd H7` (R78). -/
def rdDigest : List HostStmt := (List.finRange 8).map fun i => rd (.h i)

/-- `RDHEX`: `rd HEX0`, ..., `rd HEX15` (R78). -/
def rdHex : List HostStmt := (List.finRange 16).map fun j => rd (.hex j)

end Sys2Proof.Machine
end

