-- ==== Sys2Proof/Machine/Reference.lean ====
section
/-! DEFINITION. The functions the spec states the machine against: DOC's padding of a whole message (spec 41_padder.md
rule R111) and the block-level compression and digest (42_compressor.md R138). No step calls them. -/

namespace Sys2Proof.Machine

/-- The byte string `P` of `Pad(B)` (R111): `B`, 0x80, zeros up to 56 mod 64, and the bit-length, big-endian. -/
def padBytes (bs : List Byte) : List Byte :=
  let len := BitVec.ofNat 64 (8 * bs.length)
  bs ++ [0x80] ++ List.replicate ((55 - (bs.length : Int)) % 64).toNat 0 ++
    [len.extractLsb' 56 8, len.extractLsb' 48 8, len.extractLsb' 40 8, len.extractLsb' 32 8,
     len.extractLsb' 24 8, len.extractLsb' 16 8, len.extractLsb' 8 8, len.extractLsb' 0 8]

/-- Word `j` of a byte string: `P[4j] || P[4j+1] || P[4j+2] || P[4j+3]` (R111). -/
def wordAt (ps : List Byte) (j : Nat) : Word :=
  ((ps.getD (4 * j) 0 ++ ps.getD (4 * j + 1) 0 : BitVec 16) ++
   (ps.getD (4 * j + 2) 0 ++ ps.getD (4 * j + 3) 0 : BitVec 16))

/-- Block `q` of a byte string: Words `16q .. 16q+15` (R111). -/
def blockAt (ps : List Byte) (q : Nat) : Block := Vector.ofFn fun j => wordAt ps (16 * q + j.val)

/-- `Pad(B)`, Block by Block (R111). -/
def padBlocks (bs : List Byte) : List Block :=
  (List.range ((padBytes bs).length / 64)).map (blockAt (padBytes bs))

/-- The whole schedule of a Block, DOC's step 1 (R138): `W[t] = X[t]` below 16, then R132 for `t` in 16..63. -/
def scheduleOf (x : Block) : Schedule :=
  (List.finRange 64).foldl extendSchedule
    (Vector.ofFn fun t => if ht : t.val < 16 then x[t.val] else 0)

/-- `Compress(H, X)` (R138): 64 rounds from `a..h = H`, then the feed-forward. -/
def compress (h : Hash) (x : Block) : Hash :=
  addHash h ((List.finRange 64).foldl (fun v t => roundVars v kRom[t] (scheduleOf x)[t]) h)

/-- The digest of a message (R138). -/
def digest (bs : List Byte) : Hash := (padBlocks bs).foldl compress iv

end Sys2Proof.Machine
end

