-- ==== Sys2Proof/Safety.lean ====
section
/-! DEFINITION. What claims call a legal state and a safe run: the invariants of spec 10_state.md rule R42, several
steps at once, and the fields that belong to the core. -/

namespace Sys2Proof.Machine

/-- The invariants of 10_state.md R42, clause by clause. -/
structure Inv (s : State) : Prop where
  pend2 : s.status.pend2 = true → s.status.busy = true ∧ s.status.finalPend = true
  finalPend : s.status.finalPend = true → s.status.busy = true
  done : s.status.done = true → s.status.busy = false ∧ s.status.msgOpen = false
  msgOpen : s.status.msgOpen = true → s.status.done = false ∧ s.status.finalPend = false
  round : s.status.round.val ≤ 64
  len : s.len.toNat % 8 = 0 ∧ s.len.toNat ≤ 2 ^ 64 - 8
  err : s.status.err = false → s.status.errCode = .none ∧ s.status.multi = false

/-- What `ERRCODE` can hold (60_exceptions.md R172, R179): never `MALFORMED_BLOCK`, and a code while `ERR = 1`. -/
structure CodeInv (s : State) : Prop where
  neverMalformed : s.status.errCode ≠ .malformedBlock
  recorded : s.status.err = true → s.status.errCode ≠ .none

/-- `k` engine steps. -/
def engineSteps : Nat → State → State
  | 0, s => s
  | k + 1, s => engineSteps k (engineStep s)

/-- `n` steps of the machine that all answer a next state lead from `s` to `t`. -/
def Reaches (n : Nat) (s t : State) : Prop := Sys2Proof.core.run n s = .next t

/-- The two states agree on every field of the core (10_state.md R20): they differ at most in the model's own fields. -/
structure SameCore (s t : State) : Prop where
  op : s.op = t.op
  result : s.result = t.result
  m : s.m = t.m
  len : s.len = t.len
  h : s.h = t.h
  wv : s.wv = t.wv
  w : s.w = t.w
  status : s.status = t.status
  cfgUpper : s.cfgUpper = t.cfgUpper

/-- `v[7:0]` as a number (30_encoding.md R71), written without the decoder's own fields. -/
def opcodeOf (v : Word) : Nat := v.toNat % 2 ^ 8

/-- `v[15:8]` as a number (R71). -/
def immOf (v : Word) : Nat := v.toNat / 2 ^ 8 % 2 ^ 8

/-- `v[21:16]` as a number (R71). -/
def amountOf (v : Word) : Nat := v.toNat / 2 ^ 16 % 2 ^ 6

/-- `v[31:22]` as a number (R71). -/
def reservedOf (v : Word) : Nat := v.toNat / 2 ^ 22

/-- The 14 assigned opcodes (R73, R74 check 1). -/
def assignedOpcodes : List Nat :=
  [0x00, 0x01, 0x02, 0x03, 0x04, 0x05, 0x06, 0x07, 0x08, 0x09, 0x10, 0x11, 0x12, 0x20]

/-- The second case of `ILLEGAL_CMD` (60_exceptions.md R173): a must-be-zero field is nonzero. -/
def nonzeroField (v : Word) : Prop :=
  reservedOf v ≠ 0 ∨ (immOf v ≠ 0 ∧ opcodeOf v ≠ 0x11) ∨ (amountOf v ≠ 0 ∧ opcodeOf v ∉ [0x01, 0x02, 0x03])

/-- The words of 60_exceptions.md R173. -/
def illegalWord (v : Word) : Prop := opcodeOf v ∉ assignedOpcodes ∨ nonzeroField v

/-- The nine WordOps commands (40_word_ops.md R90). -/
def isWordOp : Instr → Bool
  | .rotr _ | .shr _ | .add _ | .ch | .maj | .bsig0 | .bsig1 | .ssig0 | .ssig1 => true
  | .nop | .init | .absorb _ | .final | .clrerr => false

/-- It is the host's turn and its next statement is `stmt`, with `rest` after it. -/
def HostNext (stmt : HostStmt) (rest : List HostStmt) (s : State) : Prop :=
  s.prog = stmt :: rest ∧ engineTurn s = false

/-- The host's step is a `wr` of the Word `v`, given as a number or as a bound name, to the register `r`. -/
def HostWrites (r : Reg) (v : Word) (s : State) : Prop :=
  ∃ x rest, HostNext (wr r x) rest s ∧ valueOf x s = v

/-- The host's step writes the word `v` to `CMD`. -/
def HostWritesCmd (v : Word) (s : State) : Prop := HostWrites .cmd v s

/-- The host's step gives the command `i`. -/
def HostCommands (i : Instr) (s : State) : Prop := ∃ v, HostWritesCmd v s ∧ decode v = .command i

/-- The step is the reset event. -/
def HostResets (s : State) : Prop := ∃ rest, HostNext .reset rest s

/-- The step is a feed-forward step (42_compressor.md R130). -/
def FeedForwardStep (s : State) : Prop := engineTurn s = true ∧ s.status.round = 64

end Sys2Proof.Machine
end

