-- ==== Sys2Proof/Certificates/Slice0/Obligations.lean ====
section
/-! DEFINITION. The statements for the provers, from the numbered rules of spec/. Each docstring names the rules it
formalises. An equation `exec i s = .next { s with … }` is at once the result, the frame (every field that is not named
is that of `s`, `W` and the model's own fields among them) and the completion of `i`. -/

open Sys2Proof Sys2Proof.Machine

/-! ### Encoding -/

/-- Words written out from the encodings of R73 and 40_word_ops.md to 44_system.md, and three illegal ones (R75). -/
def Obligations.WrittenWordsDecode : Prop :=
  decode 0x00000000 = .command .nop ∧ decode 0x00040001 = .command (.rotr 4) ∧
  decode 0x00280001 = .command (.rotr 40) ∧ decode 0x001F0002 = .command (.shr 31) ∧
  decode 0x00050003 = .command (.add 5) ∧ decode 0x00000004 = .command .ch ∧
  decode 0x00000005 = .command .maj ∧ decode 0x00000006 = .command .bsig0 ∧
  decode 0x00000007 = .command .bsig1 ∧ decode 0x00000008 = .command .ssig0 ∧
  decode 0x00000009 = .command .ssig1 ∧ decode 0x00000010 = .command .init ∧
  decode 0x00006111 = .command (.absorb 0x61) ∧ decode 0x00000012 = .command .final ∧
  decode 0x00000020 = .command .clrerr ∧ decode 0x0000000A = .illegal .unassignedOpcode ∧
  decode 0x00000104 = .illegal .nonzeroField ∧ decode 0x00440001 = .illegal .nonzeroField

/-- Every command the assembler accepts (R77) is read back from its word, every operand at every value. -/
def Obligations.DecodeOfEncodeIsTheCommand : Prop :=
  ∀ i : Instr, i.wellFormed = true → decode (encode i) = .command i

/-- "One word per command" (92_eei_decisions.md D8): a word that spells a command is the word the assembler writes. -/
def Obligations.EncodeOfDecodeIsTheWord : Prop :=
  ∀ (v : Word) (i : Instr), decode v = .command i → i.wellFormed = true ∧ encode i = v

/-- R73: a row of the opcode map matches a word exactly when the word spells that row's command, so at most one row
matches any word (the spec's own inference, "from the distinct `OPC` values under every mask"). -/
def Obligations.RowMatchesExactlyItsCommand : Prop :=
  ∀ (v : Word) (r : Fin 14), selectsRow v r = true ↔ ∃ i, decode v = .command i ∧ i.row = r

/-- R173: exactly the words of its two cases are rejected with `ILLEGAL_CMD`, whatever the state. -/
def Obligations.IllegalWordsAreRejected : Prop :=
  (∀ (v : Word) (s : State), illegalWord v → command v s = .next (reject .illegalCmd s)) ∧
  (∀ (v : Word) (s t : State), s.status.err = false → command v s = .next t →
    t.status.errCode = .illegalCmd → s.status.errCode ≠ .illegalCmd → illegalWord v)

/-- R74, R180: the checks in their order, the first failing one rejecting with its code, and then the command. -/
def Obligations.ChecksRunInOrder : Prop :=
  ∀ (v : Word) (s : State),
    (opcodeOf v ∉ assignedOpcodes → command v s = .next (reject .illegalCmd s)) ∧
    (opcodeOf v ∈ assignedOpcodes →
      (nonzeroField v → command v s = .next (reject .illegalCmd s)) ∧
      (¬ nonzeroField v →
        (opcodeOf v ∈ [0x01, 0x02] → 32 ≤ amountOf v → command v s = .next (reject .shiftRange s)) ∧
        (opcodeOf v = 0x03 → amountOf v ∉ [2, 3, 4, 5] → command v s = .next (reject .addCount s)) ∧
        (opcodeOf v ∈ [0x10, 0x11, 0x12] → s.status.busy = true → command v s = .next (reject .busy s)) ∧
        (opcodeOf v ∈ [0x11, 0x12] → s.status.busy = false → s.status.msgOpen = false →
          command v s = .next (reject .sequence s)) ∧
        (opcodeOf v = 0x11 → s.status.busy = false → s.status.msgOpen = true → 2 ^ 64 - 1 < s.len.toNat + 8 →
          command v s = .next (reject .inputTooLarge s)) ∧
        ∃ i, decode v = .command i ∧ i.opcode.toNat = opcodeOf v ∧ command v s = exec i s))

/-! ### Errors -/

/-- R171, R178, R170: what a rejection with code `c` does, and that it does nothing else. -/
def Obligations.RejectionRecordsTheFirstCode : Prop :=
  ∀ (c : ErrCode) (s : State),
    (c ≠ .inputTooLarge →
      (s.status.err = false → reject c s = { s with status := { s.status with err := true, errCode := c } }) ∧
      (s.status.err = true → reject c s = { s with status := { s.status with multi := true } })) ∧
    (s.status.err = false → reject .inputTooLarge s =
      { s with status := { s.status with err := true, errCode := .inputTooLarge, msgOpen := false } }) ∧
    (s.status.err = true → reject .inputTooLarge s =
      { s with status := { s.status with multi := true, msgOpen := false } })

/-- R36, R170: the error record changes only by a write to `CMD` or by reset; it is cleared only by `CLRERR` or reset. -/
def Obligations.ErrorRecordChangesOnlyByCommands : Prop :=
  ∀ s t : State, step s = .next t →
    ((t.status.err, t.status.multi, t.status.errCode) ≠ (s.status.err, s.status.multi, s.status.errCode) →
      (∃ v, HostWritesCmd v s) ∨ HostResets s) ∧
    (s.status.err = true → t.status.err = false → HostCommands .clrerr s ∨ HostResets s) ∧
    (s.status.multi = true → t.status.multi = false → HostCommands .clrerr s ∨ HostResets s) ∧
    (s.status.err = true → t.status.err = true → t.status.errCode = s.status.errCode)

/-- 93_implementation_defined.md I3, R139, R170, R52: every command answers a next state; no step faults; only an access
outside the interface contract of R52 is refused. -/
def Obligations.OnlyForeignAccessesStop : Prop :=
  (∀ (i : Instr) (s : State), ∃ t, exec i s = .next t) ∧
  (∀ (s : State) (f : Fault), step s ≠ .fault f) ∧
  (∀ (s : State) (e : Refusal), step s = .refused e →
    ∃ rest off width, ¬ (width = 4 ∧ off < 512 ∧ off % 4 = 0) ∧
      ((∃ x, HostNext (.write off width x) rest s) ∨ (∃ use, HostNext (.read off width use) rest s) ∨
       (width = 4 ∧ ∃ mask value, HostNext (.poll off mask value) rest s)))

/-! ### The word functions -/

/-- R91: the formula, the `n = 0` case and the two properties of DOC §8; and the bits of the result, which are the
spec's own inference ("derived: from the formula"). -/
def Obligations.RotrRotatesRight : Prop :=
  ∀ (x : Word) (n : Nat), n < 32 →
    (rotr x n).toNat = (x.toNat / 2 ^ n ||| x.toNat * 2 ^ (32 - n) % 2 ^ 32) ∧
    (∀ i, i < 32 → (rotr x n).getLsbD i = x.getLsbD ((i + n) % 32)) ∧
    rotr x 0 = x ∧ (0 < n → rotr (rotr x n) (32 - n) = x)

/-- R92: `floor(x / 2^n)`, the top `n` bits 0, and `shr(x, 0) = x`. -/
def Obligations.ShrShiftsInZeros : Prop :=
  ∀ (x : Word) (n : Nat), n < 32 →
    (shr x n).toNat = x.toNat / 2 ^ n ∧
    (∀ i, 32 - n ≤ i → i < 32 → (shr x n).getLsbD i = false) ∧ shr x 0 = x

/-- R93, R94: the formulas; bit by bit, `ch` selects and `maj` votes; the two terms of `ch` share no set bit (the last
two are the spec's own inferences, "derived: from the formula"). -/
def Obligations.ChSelectsAndMajVotes : Prop :=
  ∀ x y z : Word,
    ch x y z = (x &&& y) ^^^ (~~~x &&& z) ∧ maj x y z = (x &&& y) ^^^ (x &&& z) ^^^ (y &&& z) ∧
    ch x y z = ((x &&& y) ||| (~~~x &&& z)) ∧
    ∀ i, i < 32 →
      (ch x y z).getLsbD i = (if x.getLsbD i then y.getLsbD i else z.getLsbD i) ∧
      ((maj x y z).getLsbD i = true ↔ 2 ≤ [x, y, z].countP (fun w => w.getLsbD i))

/-- R95 to R98: the formulas; and bit by bit which bits of `x` each sigma adds modulo 2, which rests on R91's bit form,
the spec's own inference ("derived: from the formula"). -/
def Obligations.SigmaBits : Prop :=
  (∀ x : Word,
    bigSigma0 x = rotr x 2 ^^^ rotr x 13 ^^^ rotr x 22 ∧ bigSigma1 x = rotr x 6 ^^^ rotr x 11 ^^^ rotr x 25 ∧
    smallSigma0 x = rotr x 7 ^^^ rotr x 18 ^^^ shr x 3 ∧ smallSigma1 x = rotr x 17 ^^^ rotr x 19 ^^^ shr x 10) ∧
  ∀ (x : Word) (i : Nat), i < 32 →
    (bigSigma0 x).getLsbD i =
      (x.getLsbD ((i + 2) % 32) ^^ x.getLsbD ((i + 13) % 32) ^^ x.getLsbD ((i + 22) % 32)) ∧
    (bigSigma1 x).getLsbD i =
      (x.getLsbD ((i + 6) % 32) ^^ x.getLsbD ((i + 11) % 32) ^^ x.getLsbD ((i + 25) % 32)) ∧
    (smallSigma0 x).getLsbD i =
      (x.getLsbD ((i + 7) % 32) ^^ x.getLsbD ((i + 18) % 32) ^^ x.getLsbD (i + 3)) ∧
    (smallSigma1 x).getLsbD i =
      (x.getLsbD ((i + 17) % 32) ^^ x.getLsbD ((i + 19) % 32) ^^ x.getLsbD (i + 10))

/-- R99: the exact sum reduced once; and, the spec's own inference ("mod 2^32 addition is associative and commutative"),
the left fold of 32-bit additions, and no order of the operands matters. -/
def Obligations.AddModSumsModulo : Prop :=
  ∀ xs : List Word,
    (addMod xs).toNat = (xs.map BitVec.toNat).sum % 2 ^ 32 ∧
    addMod xs = xs.foldl (· + ·) 0 ∧
    ∀ ys : List Word, xs.Perm ys → addMod ys = addMod xs

/-! ### WordOps commands -/

/-- R100: `ROTR n`. -/
def Obligations.RotrCommand : Prop :=
  (∀ (s : State) (n : Nat), n < 32 → exec (.rotr n) s = .next { s with result := rotr s.op[0] n }) ∧
  (∀ (s : State) (n : Nat), 32 ≤ n →
    exec (.rotr n) s = .next (reject .shiftRange s) ∧ (reject .shiftRange s).result = s.result) ∧
  (∀ (v : Word) (s : State), opcodeOf v = 0x01 →
    (immOf v ≠ 0 ∨ reservedOf v ≠ 0 → command v s = .next (reject .illegalCmd s)) ∧
    (immOf v = 0 → reservedOf v = 0 → command v s = exec (.rotr (amountOf v)) s)) ∧
  (∀ x : Word, rotr x 0 = x ∧ rotr x 31 = ((x >>> 31) ||| (x <<< 1))) ∧
  (∀ n, n < 32 → rotr 0 n = 0 ∧ rotr 0xFFFFFFFF n = 0xFFFFFFFF) ∧
  (∀ s : State, s.op[0] = 0x12345678 → command 0x00040001 s = .next { s with result := 0x81234567 })

/-- R101: `SHR n`. -/
def Obligations.ShrCommand : Prop :=
  (∀ (s : State) (n : Nat), n < 32 → exec (.shr n) s = .next { s with result := s.op[0] >>> n }) ∧
  (∀ (s : State) (n : Nat), 32 ≤ n →
    exec (.shr n) s = .next (reject .shiftRange s) ∧ (reject .shiftRange s).result = s.result) ∧
  (∀ (v : Word) (s : State), opcodeOf v = 0x02 →
    (immOf v ≠ 0 ∨ reservedOf v ≠ 0 → command v s = .next (reject .illegalCmd s)) ∧
    (immOf v = 0 → reservedOf v = 0 → command v s = exec (.shr (amountOf v)) s)) ∧
  (∀ x : Word, shr x 0 = x ∧ shr x 31 = if x.getLsbD 31 then 1 else 0) ∧
  (∀ s : State, s.op[0] = 0x80000000 → command 0x001F0002 s = .next { s with result := 0x00000001 })

/-- R102: `ADD n`, in its four legal counts; the registers beyond `OP[n−1]` are not read. -/
def Obligations.AddCommand : Prop :=
  (∀ s : State, exec (.add 2) s = .next { s with result := s.op[0] + s.op[1] }) ∧
  (∀ s : State, exec (.add 3) s = .next { s with result := s.op[0] + s.op[1] + s.op[2] }) ∧
  (∀ s : State, exec (.add 4) s = .next { s with result := s.op[0] + s.op[1] + s.op[2] + s.op[3] }) ∧
  (∀ s : State, exec (.add 5) s = .next { s with result := s.op[0] + s.op[1] + s.op[2] + s.op[3] + s.op[4] }) ∧
  (∀ (s : State) (n : Nat), n ∉ [2, 3, 4, 5] →
    exec (.add n) s = .next (reject .addCount s) ∧ (reject .addCount s).result = s.result) ∧
  (∀ (v : Word) (s : State), opcodeOf v = 0x03 →
    (immOf v ≠ 0 ∨ reservedOf v ≠ 0 → command v s = .next (reject .illegalCmd s)) ∧
    (immOf v = 0 → reservedOf v = 0 → command v s = exec (.add (amountOf v)) s)) ∧
  (∀ s : State, (∀ i : Fin 5, s.op[i] = 0xFFFFFFFF) → exec (.add 5) s = .next { s with result := 0xFFFFFFFB }) ∧
  (∀ s : State, s.op[0] = 0xFFFFFFFF → s.op[1] = 1 → exec (.add 2) s = .next { s with result := 0 }) ∧
  (∀ s : State, s.op[0] = 0x12345678 → s.op[1] = 0x9ABCDEF0 →
    command 0x00020003 s = .next { s with result := 0xACF13568 })

/-- R103, R104: `CH` and `MAJ`, each one word exactly. -/
def Obligations.ChAndMajCommands : Prop :=
  (∀ s : State, exec .ch s = .next { s with result := (s.op[0] &&& s.op[1]) ^^^ (~~~s.op[0] &&& s.op[2]) }) ∧
  (∀ s : State, exec .maj s =
    .next { s with result := (s.op[0] &&& s.op[1]) ^^^ (s.op[0] &&& s.op[2]) ^^^ (s.op[1] &&& s.op[2]) }) ∧
  (∀ (v : Word) (s : State), opcodeOf v = 0x04 →
    (v = 0x00000004 → command v s = exec .ch s) ∧ (v ≠ 0x00000004 → command v s = .next (reject .illegalCmd s))) ∧
  (∀ (v : Word) (s : State), opcodeOf v = 0x05 →
    (v = 0x00000005 → command v s = exec .maj s) ∧ (v ≠ 0x00000005 → command v s = .next (reject .illegalCmd s))) ∧
  (∀ x y z : Word, ch 0 y z = z ∧ ch 0xFFFFFFFF y z = y ∧ ch x y y = y ∧ maj x x z = x) ∧
  maj 0 0 0xFFFFFFFF = 0 ∧ maj 0xFFFFFFFF 0xFFFFFFFF 0 = 0xFFFFFFFF ∧
  ch 0xFF00FF00 0x12345678 0x9ABCDEF0 = 0x12BC56F0 ∧ maj 0xFF00FF00 0x12345678 0x9ABCDEF0 = 0x9A34DE70

/-- R105 to R108: the four sigma commands, each one word exactly, with the rules' corner cases and examples. -/
def Obligations.SigmaCommands : Prop :=
  (∀ s : State, exec .bsig0 s = .next { s with result := rotr s.op[0] 2 ^^^ rotr s.op[0] 13 ^^^ rotr s.op[0] 22 }) ∧
  (∀ s : State, exec .bsig1 s = .next { s with result := rotr s.op[0] 6 ^^^ rotr s.op[0] 11 ^^^ rotr s.op[0] 25 }) ∧
  (∀ s : State, exec .ssig0 s = .next { s with result := rotr s.op[0] 7 ^^^ rotr s.op[0] 18 ^^^ s.op[0] >>> 3 }) ∧
  (∀ s : State, exec .ssig1 s = .next { s with result := rotr s.op[0] 17 ^^^ rotr s.op[0] 19 ^^^ s.op[0] >>> 10 }) ∧
  (∀ (v : Word) (s : State), opcodeOf v ∈ [0x06, 0x07, 0x08, 0x09] →
    (v.toNat = opcodeOf v → ∃ i ∈ [Instr.bsig0, .bsig1, .ssig0, .ssig1],
      i.opcode.toNat = opcodeOf v ∧ command v s = exec i s) ∧
    (v.toNat ≠ opcodeOf v → command v s = .next (reject .illegalCmd s))) ∧
  (bigSigma0 0 = 0 ∧ bigSigma0 0xFFFFFFFF = 0xFFFFFFFF ∧ bigSigma0 1 = 0x40080400 ∧ bigSigma0 0x6A09E667 = 0xCE20B47E) ∧
  (bigSigma1 0 = 0 ∧ bigSigma1 0xFFFFFFFF = 0xFFFFFFFF ∧ bigSigma1 1 = 0x04200080 ∧ bigSigma1 0x510E527F = 0x3587272B) ∧
  (smallSigma0 0 = 0 ∧ smallSigma0 0xFFFFFFFF = 0x1FFFFFFF ∧ smallSigma0 0x80000000 = 0x11002000 ∧
    smallSigma0 0x12345678 = 0xE7FCE6EE) ∧
  (smallSigma1 0 = 0 ∧ smallSigma1 0xFFFFFFFF = 0x003FFFFF ∧ smallSigma1 1 = 0x0000A000 ∧
    smallSigma1 0x12345678 = 0xA1F78649)

/-- R90: every WordOps command completes in any state, `BUSY` or not. Whether it is accepted, and its result, depend on
the command and `OP` alone: states that agree on `OP` get the same result, or the same rejection. It writes `RESULT` and
nothing else, or the error record and nothing else. -/
def Obligations.WordOpsTouchOnlyResultOrRecord : Prop :=
  ∀ i : Instr, isWordOp i = true →
    (∀ s s' : State, s'.op = s.op →
      (∃ x, exec i s = .next { s with result := x } ∧ exec i s' = .next { s' with result := x }) ∨
      (∃ c ∈ [ErrCode.shiftRange, .addCount], exec i s = .next (reject c s) ∧ exec i s' = .next (reject c s'))) ∧
    (∀ (s t : State) (r : Reg), exec i s = .next t → r ≠ .result → r ≠ .status → readReg r t = readReg r s)

/-- R90, 44_system.md R160, R161: a WordOps command, `NOP` or `CLRERR` and an engine step commute, so neither can
disturb the other. -/
def Obligations.BusyCommandsCommuteWithEngine : Prop :=
  ∀ (i : Instr) (s t : State), (isWordOp i = true ∨ i = .nop ∨ i = .clrerr) →
    exec i s = .next t → exec i (engineStep s) = .next (engineStep t)

/-! ### System commands -/

/-- R160, R161: `NOP` leaves every register unchanged, and `CLRERR` clears the record and nothing else (it does not reopen
a message), in any state; each is one word exactly. -/
def Obligations.SystemCommands : Prop :=
  (∀ s : State, exec .nop s = .next s) ∧
  (∀ s : State, exec .clrerr s =
    .next { s with status := { s.status with err := false, multi := false, errCode := .none } }) ∧
  (∀ (v : Word) (s : State), opcodeOf v = 0x00 →
    (v = 0 → command v s = .next s) ∧ (v ≠ 0 → command v s = .next (reject .illegalCmd s))) ∧
  (∀ (v : Word) (s : State), opcodeOf v = 0x20 →
    (v = 0x00000020 → command v s = exec .clrerr s) ∧
    (v ≠ 0x00000020 → command v s = .next (reject .illegalCmd s))) ∧
  (∀ s t : State, statusWord s.status = 0x00000560 → exec .clrerr s = .next t → statusWord t.status = 0)

/-- R162: no command transfers control: the host's program, its reads and the interleaving choices, the model's own
fields of logs 1 and 2, are as before. -/
def Obligations.CommandsLeaveTheHostAlone : Prop :=
  ∀ (i : Instr) (s t : State), exec i s = .next t →
    t.prog = s.prog ∧ t.reads = s.reads ∧ t.vars = s.vars ∧ t.checks = s.checks ∧ t.lags = s.lags ∧
    t.slack = s.slack ∧ t.draws = s.draws

/-! ### The padder -/

/-- R112: which bits byte `k` is, and that writing it changes only those. -/
def Obligations.BytesOfTheBlock : Prop :=
  ∀ (m : Block) (k : Fin 64) (b : Byte),
    (getByte m k).toNat = m[k.val / 4].toNat / 2 ^ (24 - 8 * (k.val % 4)) % 2 ^ 8 ∧
    getByte (putByte m k b) k = b ∧
    (∀ j : Fin 64, j ≠ k → getByte (putByte m k b) j = getByte m j) ∧
    (∀ m' : Block, (∀ j : Fin 64, getByte m' j = getByte m j) → m' = m)

/-- R113: `INIT`. -/
def Obligations.InitOpensAMessage : Prop :=
  (∀ s : State, s.status.busy = false → exec .init s =
    .next { s with
      h := iv, len := 0
      status := { s.status with msgOpen := true, done := false, pend2 := false, finalPend := false } }) ∧
  (∀ s : State, s.status.busy = true → exec .init s = .next (reject .busy s)) ∧
  (∀ (v : Word) (s : State), opcodeOf v = 0x10 →
    (v = 0x00000010 → command v s = exec .init s) ∧
    (v ≠ 0x00000010 → command v s = .next (reject .illegalCmd s))) ∧
  (∀ t : State, exec .init State.reset = .next t → statusWord t.status = 0x00000004 ∧ t.h[0] = 0x6A09E667)

/-- R114: `ABSORB b`. -/
def Obligations.AbsorbAppendsAByte : Prop :=
  (∀ (b : Byte) (s : State) (k : Fin 64),
    s.status.busy = false → s.status.msgOpen = true → s.len.toNat + 8 ≤ 2 ^ 64 - 1 → k.val = s.len.toNat / 8 % 64 →
    (k.val ≠ 63 → exec (.absorb b) s = .next { s with m := putByte s.m k b, len := s.len + 8 }) ∧
    (k.val = 63 → exec (.absorb b) s = .next (start { s with m := putByte s.m k b, len := s.len + 8 })) ∧
    (s.len + 8).toNat = s.len.toNat + 8) ∧
  (∀ (b : Byte) (s : State), s.status.busy = true → exec (.absorb b) s = .next (reject .busy s)) ∧
  (∀ (b : Byte) (s : State), s.status.busy = false → s.status.msgOpen = false →
    exec (.absorb b) s = .next (reject .sequence s)) ∧
  (∀ (b : Byte) (s : State), s.status.busy = false → s.status.msgOpen = true → 2 ^ 64 - 1 < s.len.toNat + 8 →
    exec (.absorb b) s = .next (reject .inputTooLarge s)) ∧
  (∀ (v : Word) (s : State), opcodeOf v = 0x11 →
    (amountOf v ≠ 0 ∨ reservedOf v ≠ 0 → command v s = .next (reject .illegalCmd s)) ∧
    (amountOf v = 0 → reservedOf v = 0 → command v s = exec (.absorb (BitVec.ofNat 8 (immOf v))) s)) ∧
  (∀ s t u : State, s.status.busy = false → command 0x00000010 s = .next t → command 0x00006111 t = .next u →
    (u.m[0]).extractLsb' 24 8 = 0x61 ∧ u.len = 8)

/-- R117, R178: the `ABSORB` that would reach 2^64 bits is rejected and closes the message: until the next `INIT` no
byte is absorbed and the message cannot be finalised. -/
def Obligations.TooLongMessageIsClosed : Prop :=
  ∀ (b : Byte) (s : State), s.status.busy = false → s.status.msgOpen = true → 2 ^ 64 - 1 < s.len.toNat + 8 →
    exec (.absorb b) s = .next (reject .inputTooLarge s) ∧
    (reject .inputTooLarge s).status.msgOpen = false ∧
    (reject .inputTooLarge s).len = s.len ∧ (reject .inputTooLarge s).m = s.m ∧
    (s.status.err = false → (reject .inputTooLarge s).status.err = true ∧
      (reject .inputTooLarge s).status.errCode.value = 6) ∧
    (s.status.err = true → (reject .inputTooLarge s).status.multi = true ∧
      (reject .inputTooLarge s).status.errCode = s.status.errCode) ∧
    (s.len.toNat % 8 = 0 → s.len.toNat = 2 ^ 64 - 8) ∧
    ∀ t : State, t.status.busy = false → t.status.msgOpen = (reject .inputTooLarge s).status.msgOpen →
      exec .final t = .next (reject .sequence t) ∧ ∀ b', exec (.absorb b') t = .next (reject .sequence t)

/-- R115: `FINAL`, byte by byte: bytes before `r` are the message's, byte `r` is 0x80, then zeros, and where `r ≤ 55`
bytes 56 to 63 are the big-endian bit-length; the flags; then `Start()`. -/
def Obligations.FinalPadsAndStarts : Prop :=
  (∀ (s : State) (r : Nat), s.status.busy = false → s.status.msgOpen = true → r = s.len.toNat / 8 % 64 →
    ∃ m' : Block,
      exec .final s = .next (start { s with
        m := m'
        status := { s.status with msgOpen := false, finalPend := true, pend2 := decide (56 ≤ r) } }) ∧
      ∀ k : Fin 64, getByte m' k =
        if k.val < r then getByte s.m k
        else if k.val = r then 0x80
        else if r ≤ 55 ∧ 56 ≤ k.val then BitVec.ofNat 8 (s.len.toNat / 2 ^ (8 * (63 - k.val)))
        else 0) ∧
  (∀ s : State, s.status.busy = true → exec .final s = .next (reject .busy s)) ∧
  (∀ s : State, s.status.busy = false → s.status.msgOpen = false → exec .final s = .next (reject .sequence s)) ∧
  (∀ (v : Word) (s : State), opcodeOf v = 0x12 →
    (v = 0x00000012 → command v s = exec .final s) ∧
    (v ≠ 0x00000012 → command v s = .next (reject .illegalCmd s)))

/-- R111, R119: `Pad(B)` is a whole number of Blocks, `floor((ℓ + 8) / 64) + 1` of them; it starts with the message
and ends with the bit-length, big-endian; between them one 0x80 and zeros. Both rules mark the byte form and the count as
their own inference. -/
def Obligations.PaddingShape : Prop :=
  ∀ bs : List Byte, bs.length < 2 ^ 61 →
    (padBytes bs).length = 64 * ((bs.length + 8) / 64 + 1) ∧
    (padBlocks bs).length = (bs.length + 8) / 64 + 1 ∧
    (padBytes bs).take bs.length = bs ∧
    (padBytes bs)[bs.length]? = some 0x80 ∧
    (∀ k, bs.length < k → k < (padBytes bs).length - 8 → (padBytes bs)[k]? = some 0) ∧
    ((padBytes bs).drop ((padBytes bs).length - 8)).foldl (fun n b => 256 * n + b.toNat) 0 = 8 * bs.length

/-! ### The compressor -/

/-- R135, R136 (the spec takes both from general knowledge, log 16): `IV[i]` and `K[t]` are the first 32 bits of the
fractional parts of the square root of the (i+1)-th prime and of the cube root of the (t+1)-th prime. -/
def Obligations.ConstantsFromPrimes : Prop :=
  (∀ i : Fin 8, ∃ p a : Nat, p.Prime ∧ Nat.count Nat.Prime p = i.val ∧
    a ^ 2 ≤ p * 2 ^ 64 ∧ p * 2 ^ 64 < (a + 1) ^ 2 ∧ iv[i].toNat = a % 2 ^ 32) ∧
  (∀ t : Fin 64, ∃ p a : Nat, p.Prime ∧ Nat.count Nat.Prime p = t.val ∧
    a ^ 3 ≤ p * 2 ^ 96 ∧ p * 2 ^ 96 < (a + 1) ^ 3 ∧ kRom[t].toNat = a % 2 ^ 32)

/-- R131: `Start()`. -/
def Obligations.StartCopiesBlockAndState : Prop :=
  ∀ s : State,
    start s = { s with w := (start s).w, wv := s.h, status := { s.status with round := 0, busy := true } } ∧
    (∀ t (ht : t < 16), (start s).w[t] = s.m[t]) ∧
    (∀ t (_ : 16 ≤ t) (ht : t < 64), (start s).w[t] = s.w[t])

/-- R132, R133: round step `t`, the eight writes simultaneous, and nothing else changed. -/
def Obligations.RoundStepAdvancesTheBlock : Prop :=
  ∀ (s : State) (t : Fin 64), s.status.round = t.castSucc →
    ∃ w' : Schedule,
      (t.val < 16 → w' = s.w) ∧
      (16 ≤ t.val → w' = s.w.set t.val
        (smallSigma1 s.w[t.val - 2] + s.w[t.val - 7] + smallSigma0 s.w[t.val - 15] + s.w[t.val - 16])) ∧
      ∃ t1 t2 : Word,
        t1 = s.wv[7] + bigSigma1 s.wv[4] + ch s.wv[4] s.wv[5] s.wv[6] + kRom[t] + w'[t] ∧
        t2 = bigSigma0 s.wv[0] + maj s.wv[0] s.wv[1] s.wv[2] ∧
        engineStep s = { s with
          w := w'
          wv := #v[t1 + t2, s.wv[0], s.wv[1], s.wv[2], s.wv[3] + t1, s.wv[4], s.wv[5], s.wv[6]]
          status := { s.status with round := t.succ } }

/-- R134, R116: the feed-forward step, and then the length-only Block, or the end of the message, or the end of a
Block. -/
def Obligations.FeedForwardAddsAndContinues : Prop :=
  ∀ s : State, s.status.round = 64 →
    ∃ h' : Hash, (∀ i : Fin 8, h'[i] = s.h[i] + s.wv[i]) ∧
      (s.status.pend2 = true → ∃ m' : Block,
        (∀ i (hi : i < 14), m'[i] = 0) ∧ m'[14] = s.len.extractLsb' 32 32 ∧ m'[15] = s.len.extractLsb' 0 32 ∧
        engineStep s = start { s with h := h', m := m', status := { s.status with pend2 := false } }) ∧
      (s.status.pend2 = false → s.status.finalPend = true →
        engineStep s =
          { s with h := h', status := { s.status with busy := false, finalPend := false, done := true } }) ∧
      (s.status.pend2 = false → s.status.finalPend = false →
        engineStep s = { s with h := h', status := { s.status with busy := false } })

/-- R130: the engine writes only `H`, `M`, `W`, `WV` and `STATUS`, and takes no input from `OP`, `RESULT` or `CFG`. -/
def Obligations.EngineIgnoresHostRegisters : Prop :=
  ∀ (s : State) (ops : Vector Word 5) (res : Word) (u : Bool),
    engineStep s = { s with
      h := (engineStep s).h, m := (engineStep s).m, w := (engineStep s).w
      wv := (engineStep s).wv, status := (engineStep s).status } ∧
    engineStep { s with op := ops, result := res, cfgUpper := u } =
      { engineStep s with op := ops, result := res, cfgUpper := u }

/-- R138, an inference the spec marks as its own: the 65 engine steps after a `Start()` with `H = h0` and `M = X` leave
`H = Compress(h0, X)`, and `H` is `h0` until the last of them. -/
def Obligations.SixtyFiveStepsCompressTheBlock : Prop :=
  ∀ s : State,
    (engineSteps Config.engineStepsPerBlock (start s)).h = compress s.h s.m ∧
    ∀ k, k < Config.engineStepsPerBlock → (engineSteps k (start s)).h = s.h

/-- R137, an inference the spec marks as its own: with no host step between (the host's program is the model's field,
log 1), a Block takes exactly 65 engine steps after its `Start()`, and a message with two final Blocks 130. -/
def Obligations.BlockTakesSixtyFiveSteps : Prop :=
  ∀ (s : State) (n : Nat), s.prog = [] → n = (if s.status.pend2 then 130 else 65) →
    (∀ k, k < n → ∃ t, Reaches k (start s) t ∧ t.status.busy = true) ∧
    ∃ t, Reaches n (start s) t ∧ t.status.busy = false ∧ t.status.round = 64 ∧
      (s.status.finalPend = true → t.status.done = true) ∧ SameCore t (engineSteps n (start s))

/-- R200, R78, R59, inferences the spec marks as its own: every `WAIT` ends, after at most 130 engine steps, with `BUSY
= 0`, whatever the interleaving (logs 2 and 3); it has then no other effect on the core than those engine steps. That
its reads are not kept is the model's choice (log 11). -/
def Obligations.WaitEnds : Prop :=
  ∀ (s : State) (rest : List HostStmt), s.prog = waitStmt :: rest →
    ∃ n k t, k ≤ 130 ∧ Reaches n s t ∧ t.prog = rest ∧ t.status.busy = false ∧
      t.reads = s.reads ∧ t.vars = s.vars ∧ t.checks = s.checks ∧
      SameCore t (engineSteps k s)

/-- DOC §6 (95_test_vectors.md L1.1): the three reference digests. -/
def Obligations.ReferenceDigests : Prop :=
  digest [0x61, 0x62, 0x63] =
    #v[0xBA7816BF, 0x8F01CFEA, 0x414140DE, 0x5DAE2223, 0xB00361A3, 0x96177A9C, 0xB410FF61, 0xF20015AD] ∧
  digest [] =
    #v[0xE3B0C442, 0x98FC1C14, 0x9AFBF4C8, 0x996FB924, 0x27AE41E4, 0x649B934C, 0xA495991B, 0x7852B855] ∧
  digest ([0x61, 0x62, 0x63, 0x64, 0x62, 0x63, 0x64, 0x65, 0x63, 0x64, 0x65, 0x66, 0x64, 0x65, 0x66, 0x67] ++
      [0x65, 0x66, 0x67, 0x68, 0x66, 0x67, 0x68, 0x69, 0x67, 0x68, 0x69, 0x6A, 0x68, 0x69, 0x6A, 0x6B] ++
      [0x69, 0x6A, 0x6B, 0x6C, 0x6A, 0x6B, 0x6C, 0x6D, 0x6B, 0x6C, 0x6D, 0x6E, 0x6C, 0x6D, 0x6E, 0x6F] ++
      [0x6D, 0x6E, 0x6F, 0x70, 0x6E, 0x6F, 0x70, 0x71]) =
    #v[0x248D6A61, 0xD20638B8, 0xE5C02693, 0x0C3E6039, 0xA33CE459, 0x64FF2167, 0xF6ECEDD4, 0x19DB06C1]

/-- R78, R118, R138, inferences the spec marks as its own: `HASH b0, ..., bk` ends with `DONE = 1` and `H` the SHA-256
digest of the bytes, from every state and under every interleaving that is weakly fair (logs 1, 2 and 3, the last
DEDUCED and unsafe); that the Words a `poll` reads are not kept is the model's choice (log 11); the error record is as
before, so no command of it was rejected. -/
def Obligations.HashProgramComputesTheDigest : Prop :=
  ∀ (bs : List Byte) (s : State) (rest : List HostStmt), bs.length < 2 ^ 61 → s.prog = hashProg bs ++ rest →
    ∃ n t, Reaches n s t ∧ t.prog = rest ∧ t.status.done = true ∧ t.status.busy = false ∧
      t.status.msgOpen = false ∧ t.h = digest bs ∧ t.len.toNat = 8 * bs.length ∧
      t.status.err = s.status.err ∧ t.status.multi = s.status.multi ∧ t.status.errCode = s.status.errCode ∧
      t.op = s.op ∧ t.result = s.result ∧ t.cfgUpper = s.cfgUpper ∧ t.reads = s.reads ∧
      t.vars = s.vars ∧ t.checks = s.checks

/-! ### The digest formatter -/

/-- R151, R152, R153: the codes of the 16 digits, which the spec takes from general knowledge (log 16, PRESUMED), in
both cases, and the four characters of `HEX[j]`, the first in bits 31:24, as the host reads them. -/
def Obligations.HexRegistersSpellTheState : Prop :=
  (∀ v : BitVec 4,
    (v.toNat ≤ 9 → ∀ u, (hexchar v u).toNat = 0x30 + v.toNat) ∧
    (10 ≤ v.toNat →
      (hexchar v false).toNat = 0x61 + (v.toNat - 10) ∧ (hexchar v true).toNat = 0x41 + (v.toNat - 10))) ∧
  ∀ (s : State) (j : Fin 16) (p : Fin 4) (i : Fin 64), i.val = 4 * j.val + p.val →
    ∃ x, memRead (0x0C0 + 4 * j.val) 4 s = .ok x ∧
      x.extractLsb' (24 - 8 * p.val) 8 =
        hexchar (BitVec.ofNat 4 (s.h[i.val / 8].toNat / 2 ^ (28 - 4 * (i.val % 8)))) s.cfgUpper

/-- R152, R155, R156, with the ASCII codes of R151 (log 16): the digest string has exactly 64 characters, in either
case, and determines the State; a raw digest byte is two adjacent digits of it, the first the more significant. -/
def Obligations.DigestTextDeterminesTheState : Prop :=
  (∀ (h h' : Hash) (u : Bool), (hexText h u).length = 64 ∧ (hexText h u = hexText h' u → h = h')) ∧
  (∀ (h : Hash) (n : Fin 32) (i j : Fin 64), i.val = 2 * n.val → j.val = 2 * n.val + 1 →
    digestByte h n = (hexDigit h i ++ hexDigit h j : BitVec 8))

/-- R151: `CFG.UPPER` changes the letters of `HEX` and the reads of `CFG`, and nothing else in the core. -/
def Obligations.CaseChangesNothingElse : Prop :=
  ∀ (s : State) (u : Bool),
    (∀ i, exec i { s with cfgUpper := u } = mapNext (fun t => { t with cfgUpper := u }) (exec i s)) ∧
    engineStep { s with cfgUpper := u } = { engineStep s with cfgUpper := u } ∧
    (∀ r : Reg, r ≠ .cfg → (∀ j, r ≠ .hex j) → readReg r { s with cfgUpper := u } = readReg r s)

/-! ### The window -/

/-- R51, R50: every register is found at its offset, and every aligned offset of the window is a register's. -/
def Obligations.EverySlotIsOneRegister : Prop :=
  (∀ r : Reg, regAt r.offset 4 = .ok r) ∧
  (∀ off, off < 512 → off % 4 = 0 → ∃ r : Reg, r.offset = off ∧ ∀ r' : Reg, r'.offset = off → r' = r)

/-- R52: exactly the 32-bit aligned accesses in the window are accesses; any other is refused (log 6). -/
def Obligations.OtherAccessesAreRefused : Prop :=
  ∀ (off width : Nat) (v : Word) (s : State),
    (width = 4 ∧ off < 512 ∧ off % 4 = 0 → (∃ x, memRead off width s = .ok x) ∧ ∃ t, memWrite off width v s = .next t) ∧
    (¬ (width = 4 ∧ off < 512 ∧ off % 4 = 0) →
      (∃ e, memRead off width s = .error e ∧ memWrite off width v s = .refused e))

/-- R51, R38, R39, R28, R29, R53: what a read of each register of the window returns. -/
def Obligations.WindowReads : Prop :=
  ∀ s : State,
    memRead 0x000 4 s = .ok 0x53323536 ∧ memRead 0x004 4 s = .ok 0 ∧
    memRead 0x00C 4 s = .ok (if s.cfgUpper then 1 else 0) ∧
    (∀ i : Fin 5, memRead (0x010 + 4 * i.val) 4 s = .ok s.op[i]) ∧
    memRead 0x024 4 s = .ok s.result ∧
    (∃ hi lo, memRead 0x028 4 s = .ok hi ∧ memRead 0x02C 4 s = .ok lo ∧ (hi ++ lo : BitVec 64) = s.len) ∧
    (∀ i : Fin 4, memRead (0x030 + 4 * i.val) 4 s = .ok 0) ∧
    (∀ i : Fin 16, memRead (0x040 + 4 * i.val) 4 s = .ok s.m[i]) ∧
    (∀ i : Fin 8, memRead (0x080 + 4 * i.val) 4 s = .ok s.h[i]) ∧
    (∀ i : Fin 8, memRead (0x0A0 + 4 * i.val) 4 s = .ok s.wv[i]) ∧
    (∀ t : Fin 64, memRead (0x100 + 4 * t.val) 4 s = .ok kRom[t])

/-- R30, R172: every bit of a read of `STATUS`, and the number of each error code. -/
def Obligations.StatusReadLayout : Prop :=
  ∀ s : State, ∃ x, memRead 0x008 4 s = .ok x ∧
    x.getLsbD 0 = s.status.busy ∧ x.getLsbD 1 = s.status.done ∧ x.getLsbD 2 = s.status.msgOpen ∧
    x.getLsbD 3 = s.status.pend2 ∧ x.getLsbD 4 = s.status.finalPend ∧ x.getLsbD 5 = s.status.err ∧
    x.getLsbD 6 = s.status.multi ∧ x.getLsbD 7 = false ∧ x.extractLsb' 8 4 = s.status.errCode.value ∧
    x.extractLsb' 12 4 = 0 ∧ (x.extractLsb' 16 7).toNat = s.status.round.val ∧ x.extractLsb' 23 9 = 0 ∧
    ((x.extractLsb' 8 4).toNat = 0 ↔ s.status.errCode = .none) ∧
    ((x.extractLsb' 8 4).toNat = 1 ↔ s.status.errCode = .illegalCmd) ∧
    ((x.extractLsb' 8 4).toNat = 2 ↔ s.status.errCode = .shiftRange) ∧
    ((x.extractLsb' 8 4).toNat = 3 ↔ s.status.errCode = .addCount) ∧
    ((x.extractLsb' 8 4).toNat = 4 ↔ s.status.errCode = .busy) ∧
    ((x.extractLsb' 8 4).toNat = 5 ↔ s.status.errCode = .sequence) ∧
    ((x.extractLsb' 8 4).toNat = 6 ↔ s.status.errCode = .inputTooLarge) ∧
    ((x.extractLsb' 8 4).toNat = 7 ↔ s.status.errCode = .malformedBlock)

/-- R53, R54, R21, R29: a write to `OP[i]` stores all 32 bits and nothing else, a write to `CFG` stores bit 0 and nothing
else; a write to a read-only register or a reserved slot changes nothing and records no error; a reserved slot and `CMD`
read 0. -/
def Obligations.WindowWrites : Prop :=
  ∀ (v : Word) (s : State),
    (∀ i : Fin 5, memWrite (0x010 + 4 * i.val) 4 v s = .next { s with op := s.op.set i.val v }) ∧
    memWrite 0x00C 4 v s = .next { s with cfgUpper := v.getLsbD 0 } ∧
    (∀ r ∈ [Reg.id, .status, .result, .lenHi, .lenLo], memWrite r.offset 4 v s = .next s) ∧
    (∀ i : Fin 4, memWrite (0x030 + 4 * i.val) 4 v s = .next s ∧ memRead (0x030 + 4 * i.val) 4 s = .ok 0) ∧
    (∀ i : Fin 112, memWrite (0x040 + 4 * i.val) 4 v s = .next s) ∧ memRead 0x004 4 s = .ok 0

/-- R55: a host read changes nothing but what the host has read (the model's fields `reads`, `vars` and `checks`, logs 1
and 17); a write elsewhere than `CMD` has, twice, the effect of once; two `ABSORB` writes absorb two bytes. -/
def Obligations.ReadsHaveNoSideEffect : Prop :=
  (∀ (off width : Nat) (use : ReadUse) (s t : State), hostStep (.read off width use) s = .next t →
    ∃ x, memRead off width s = .ok x ∧ t = { s with reads := x :: s.reads, vars := t.vars, checks := t.checks }) ∧
  (∀ (off width : Nat) (v : Word) (s t : State), off ≠ 0x004 →
    memWrite off width v s = .next t → memWrite off width v t = .next t) ∧
  (∀ (b : Byte) (s : State), s.status.busy = false → s.status.msgOpen = true → s.len.toNat / 8 % 64 < 62 →
    s.len.toNat + 16 ≤ 2 ^ 64 - 1 →
    ∃ t t', memWrite 0x004 4 (encode (.absorb b)) s = .next t ∧ memWrite 0x004 4 (encode (.absorb b)) t = .next t' ∧
      t'.len.toNat = s.len.toNat + 16)

/-! ### Reset -/

/-- R43: every piece of state after reset. The eight words of `H` are R135's IV, which the spec takes from general
knowledge (log 16, PRESUMED and unsafe). -/
def Obligations.ResetValues : Prop :=
  (∀ i : Fin 5, State.reset.op[i] = 0) ∧ State.reset.result = 0 ∧ (∀ i : Fin 16, State.reset.m[i] = 0) ∧
  State.reset.len = 0 ∧
  State.reset.h =
    #v[0x6A09E667, 0xBB67AE85, 0x3C6EF372, 0xA54FF53A, 0x510E527F, 0x9B05688C, 0x1F83D9AB, 0x5BE0CD19] ∧
  (∀ i : Fin 8, State.reset.wv[i] = 0) ∧ (∀ t : Fin 64, State.reset.w[t] = 0) ∧
  State.reset.status = ⟨false, false, false, false, false, false, false, .none, 0⟩ ∧
  State.reset.cfgUpper = false ∧ memRead 0x000 4 State.reset = .ok 0x53323536 ∧
  (∀ t : Fin 64, memRead (0x100 + 4 * t.val) 4 State.reset = .ok kRom[t])

/-- R190: the reset event, in any state, puts the core to its reset state, abandons the Block in work and records no
error; the host goes on with what follows, which is the model's choice (log 9). -/
def Obligations.ResetEventRestoresTheCore : Prop :=
  ∀ (s : State) (rest : List HostStmt), HostNext .reset rest s →
    ∃ t, step s = .next t ∧ SameCore t State.reset ∧ t.prog = rest ∧ t.reads = s.reads ∧ t.vars = s.vars ∧
      t.checks = s.checks ∧ engineTurn t = false

/-! ### Steps -/

/-- A step runs the decoded command (R74, R39, R56): a host `MemWrite` of `v` to `CMD`, when it is the host's turn, is
the command `v` spells, on the state whose program goes on after it; if that starts the idle engine, the number of
host steps before the engine's first step is drawn. The host's program and the draw are the model's (logs 1
and 2). -/
def Obligations.StepRunsTheDecodedCommand : Prop :=
  (∀ (s : State) (x : HostVal) (rest : List HostStmt) (i : Instr),
    HostNext (.write 0x004 4 x) rest s → decode (valueOf x s) = .command i →
    step s = mapNext (armEngine s) (exec i (takeStmt rest s))) ∧
  (∀ (s : State) (x : HostVal) (rest : List HostStmt) (why : Illegal),
    HostNext (.write 0x004 4 x) rest s → decode (valueOf x s) = .illegal why →
    step s = .next (reject .illegalCmd (takeStmt rest s))) ∧
  (∀ (s : State) (w : Nat), w < 2 ^ 32 →
    step (s.withFetchWord 32 w) = mapNext (armEngine s) (command (BitVec.ofNat 32 w) s)) ∧
  (∀ (s : State) (rest : List HostStmt), SameCore s (takeStmt rest s) ∧ (takeStmt rest s).prog = rest ∧
    (takeStmt rest s).vars = s.vars) ∧
  (∀ s t : State, SameCore t (armEngine s t) ∧ (armEngine s t).prog = t.prog ∧ (armEngine s t).reads = t.reads ∧
    (armEngine s t).vars = t.vars ∧ (armEngine s t).checks = t.checks)

/-- R77: the host's `wr`, `rd` and `poll` as steps. The model's own choices in it: the list of what `rd` has read (log
1); that an unanswered `poll` stays the host's next statement, one step a repeat, and that its Words are not kept (log
11). -/
def Obligations.StepRunsHostStatements : Prop :=
  ∀ (s : State) (rest : List HostStmt) (r : Reg),
    (∀ x, r ≠ .cmd → HostNext (wr r x) rest s → step s = writeReg r (valueOf x s) (takeStmt rest s)) ∧
    (HostNext (rd r) rest s →
      step s = .next { takeStmt rest s with reads := readReg r s :: s.reads }) ∧
    (∀ mask value, HostNext (.poll r.offset mask value) rest s →
      readReg r s &&& valueOf mask s = valueOf value s →
      step s = .next (takeStmt rest s)) ∧
    (∀ mask value, HostNext (.poll r.offset mask value) rest s →
      readReg r s &&& valueOf mask s ≠ valueOf value s →
      step s = .next { takeStmt rest s with prog := s.prog })

/-- R77: `rd REG -> name` binds the Word it reads to the name, which a later `value` then stands for, and `rd REG ==
value` checks it. The form of the list of bindings, that the latest binding counts, and that a check is recorded and
stops nothing ("The `poll` statement is the host's only control flow") are the model's (logs 1 and 17). -/
def Obligations.HostNamesCarryWords : Prop :=
  (∀ (s : State) (rest : List HostStmt) (r : Reg) (n : Nat), HostNext (rdBind r n) rest s →
    ∃ t, step s = .next t ∧ t.prog = rest ∧ SameCore t s ∧ t.reads = readReg r s :: s.reads ∧ t.checks = s.checks ∧
      valueOf (.name n) t = readReg r s ∧ ∀ m, m ≠ n → valueOf (.name m) t = valueOf (.name m) s) ∧
  (∀ (s : State) (rest : List HostStmt) (r : Reg) (x : HostVal), HostNext (rdCheck r x) rest s →
    ∃ t, step s = .next t ∧ t.prog = rest ∧ SameCore t s ∧ t.reads = readReg r s :: s.reads ∧ t.vars = s.vars ∧
      ∃ b, t.checks = b :: s.checks ∧ (b = true ↔ readReg r s = valueOf x s)) ∧
  (∀ (s : State) (v : Word), valueOf (.lit v) s = v) ∧
  (∀ (s t : State) (m : Nat), step s = .next t → (∀ r n rest, ¬ HostNext (rdBind r n) rest s) →
    valueOf (.name m) t = valueOf (.name m) s)

/-- R130, R58, R189: whose step it is. The engine has one exactly while `BUSY = 1`; while the host has a statement
too, either may move, as `slack` says (the model's field, log 2); with neither, all state is kept (log 8). -/
def Obligations.EitherAgentMayMove : Prop :=
  ∀ s : State,
    (s.status.busy = true → s.prog = [] → step s = .next (drawSlack (engineStep s))) ∧
    (s.status.busy = true → step { s with slack := 0 } = .next (drawSlack (engineStep { s with slack := 0 }))) ∧
    (∀ stmt rest n, s.prog = stmt :: rest →
      step { s with slack := n + 1 } = hostMove stmt rest { s with slack := n + 1 }) ∧
    (∀ stmt rest, s.status.busy = false → s.prog = stmt :: rest → step s = hostMove stmt rest s) ∧
    (s.status.busy = false → s.prog = [] → step s = .next s) ∧
    SameCore s (drawSlack s) ∧ (drawSlack s).prog = s.prog ∧ (drawSlack s).reads = s.reads ∧
    (drawSlack s).vars = s.vars ∧ (drawSlack s).checks = s.checks ∧
    (∀ n rest, s.lags = n :: rest → (drawSlack s).slack = n ∧ (drawSlack s).lags = rest)

/-- R140: weak fairness, as the model has it (logs 2 and 3). A host step while `BUSY = 1` uses up one of the finitely many
host steps before the engine's next step; only the reset event ends `BUSY` in a host step. -/
def Obligations.HostCannotHoldTheEngine : Prop :=
  ∀ s t : State, s.status.busy = true → engineTurn s = false → step s = .next t →
    t.slack + 1 = s.slack ∧ (t.status.busy = true ∨ HostResets s)

/-! ### Who writes what -/

/-- R21 to R25, R28, R29: the only steps that change `OP`, `RESULT`, `M`, `LEN`, `H`, `WV` and `CFG`. -/
def Obligations.RegisterWriters : Prop :=
  ∀ s t : State, step s = .next t → ¬ HostResets s →
    (t.op ≠ s.op → ∃ (i : Fin 5) (v : Word), HostWrites (.op i) v s ∧ t.op = s.op.set i.val v) ∧
    (t.result ≠ s.result → ∃ i, isWordOp i = true ∧ HostCommands i s) ∧
    (t.m ≠ s.m → (∃ b, HostCommands (.absorb b) s) ∨ HostCommands .final s ∨
      (FeedForwardStep s ∧ s.status.pend2 = true)) ∧
    (t.len ≠ s.len → HostCommands .init s ∨ ∃ b, HostCommands (.absorb b) s) ∧
    (t.h ≠ s.h → HostCommands .init s ∨ FeedForwardStep s) ∧
    (t.wv ≠ s.wv → engineTurn s = true ∨ (∃ b, HostCommands (.absorb b) s) ∨ HostCommands .final s) ∧
    (t.w ≠ s.w → engineTurn s = true ∨ (∃ b, HostCommands (.absorb b) s) ∨ HostCommands .final s) ∧
    (t.cfgUpper ≠ s.cfgUpper → ∃ v, HostWrites .cfg v s ∧ t.cfgUpper = v.getLsbD 0)

/-- R31 to R35, R37, R41: the only steps that set and clear each flag of `STATUS`, and how `ROUND` moves. -/
def Obligations.FlagWriters : Prop :=
  ∀ s t : State, step s = .next t → ¬ HostResets s →
    (s.status.busy = false → t.status.busy = true → (∃ b, HostCommands (.absorb b) s) ∨ HostCommands .final s) ∧
    (s.status.busy = true → t.status.busy = false → FeedForwardStep s ∧ s.status.pend2 = false) ∧
    (s.status.done = false → t.status.done = true →
      FeedForwardStep s ∧ s.status.pend2 = false ∧ s.status.finalPend = true) ∧
    (s.status.done = true → t.status.done = false → HostCommands .init s) ∧
    (s.status.msgOpen = false → t.status.msgOpen = true → HostCommands .init s) ∧
    (s.status.msgOpen = true → t.status.msgOpen = false →
      HostCommands .final s ∨ ((∃ b, HostCommands (.absorb b) s) ∧ 2 ^ 64 - 1 < s.len.toNat + 8)) ∧
    (s.status.pend2 = false → t.status.pend2 = true → HostCommands .final s ∧ 56 ≤ s.len.toNat / 8 % 64) ∧
    (s.status.pend2 = true → t.status.pend2 = false → FeedForwardStep s ∨ HostCommands .init s ∨ HostCommands .final s) ∧
    (s.status.finalPend = false → t.status.finalPend = true → HostCommands .final s) ∧
    (s.status.finalPend = true → t.status.finalPend = false →
      (FeedForwardStep s ∧ s.status.pend2 = false ∧ t.status.done = true) ∨ HostCommands .init s) ∧
    (t.status.round ≠ s.status.round →
      (engineTurn s = true ∧ t.status.round.val = s.status.round.val + 1) ∨
      (t.status.round = 0 ∧ t.status.busy = true))

/-! ### Invariants -/

/-- The invariants that R42 infers ("derived: from rules R31 to R37") hold after reset. -/
def Obligations.ResetMeetsTheInvariants : Prop := Inv State.reset ∧ CodeInv State.reset

/-- R42, an inference the spec marks as its own ("derived: from rules R31 to R37 and 41_padder.md rules R113 to R115,
42_compressor.md rules R131 to R134"): every step, of either agent, keeps the invariants. -/
def Obligations.EveryStepKeepsTheInvariants : Prop :=
  ∀ s t : State, Inv s → step s = .next t → Inv t

/-- R172, R179: `ERRCODE` never becomes `MALFORMED_BLOCK`, and holds a code while `ERR = 1`. -/
def Obligations.EveryStepKeepsLegalCodes : Prop :=
  ∀ s t : State, CodeInv s → step s = .next t → CodeInv t
end

