-- ==== Sys2Proof/Laws/Decode.lean ====
section
/-! SUPPORT. The fields of a command word, and what the decoder can answer (30_encoding.md R70 to R74). -/

namespace Sys2Proof

/-- The four fields of R70, bit by bit. -/
theorem getLsbD_cmd32 (n : BitVec 6) (imm opc : BitVec 8) (i : Nat) :
    (cmd32 n imm opc).getLsbD i =
      if i < 8 then opc.getLsbD i else if i < 16 then imm.getLsbD (i - 8)
      else if i < 22 then n.getLsbD (i - 16) else false := by
  simp only [cmd32, BitVec.getLsbD_append]
  by_cases h1 : i < 8
  · simp [h1, show i < 16 by omega]
  · by_cases h2 : i < 16
    · simp [h1, h2]
    · by_cases h3 : i < 22
      · simp [h1, h2, h3, show i - 16 < 6 by omega]
      · simp [h1, h2, h3, show ¬ i - 16 < 6 by omega]

@[simp] theorem opcField_cmd32 (n : BitVec 6) (imm opc : BitVec 8) : opcField (cmd32 n imm opc) = opc := by
  apply BitVec.eq_of_getLsbD_eq; intro i hi
  simp only [opcField, BitVec.getLsbD_extractLsb', getLsbD_cmd32]
  simp [hi]

@[simp] theorem immField_cmd32 (n : BitVec 6) (imm opc : BitVec 8) : immField (cmd32 n imm opc) = imm := by
  apply BitVec.eq_of_getLsbD_eq; intro i hi
  simp only [immField, BitVec.getLsbD_extractLsb', getLsbD_cmd32]
  simp [hi, show 8 + i < 16 by omega]

@[simp] theorem n6Field_cmd32 (n : BitVec 6) (imm opc : BitVec 8) : n6Field (cmd32 n imm opc) = n := by
  apply BitVec.eq_of_getLsbD_eq; intro i hi
  simp only [n6Field, BitVec.getLsbD_extractLsb', getLsbD_cmd32]
  simp [hi, show ¬ 16 + i < 8 by omega, show 16 + i < 22 by omega]

@[simp] theorem rsvField_cmd32 (n : BitVec 6) (imm opc : BitVec 8) : rsvField (cmd32 n imm opc) = 0 := by
  apply BitVec.eq_of_getLsbD_eq; intro i hi
  simp only [rsvField, BitVec.getLsbD_extractLsb', getLsbD_cmd32]
  simp [show ¬ 22 + i < 8 by omega, show ¬ 22 + i < 16 by omega]

/-- A word whose `RSV` is 0 is its other three fields. -/
theorem cmd32_fields (v : Word) (h : rsvField v = 0) : cmd32 (n6Field v) (immField v) (opcField v) = v := by
  apply BitVec.eq_of_getLsbD_eq; intro i hi
  simp only [cmd32, BitVec.getLsbD_append, opcField, immField, n6Field, BitVec.getLsbD_extractLsb']
  by_cases h1 : i < 8
  · simp [h1, show i < 16 by omega]
  · by_cases h2 : i < 16
    · simp [h1, h2, show i - 8 < 8 by omega, show 8 + (i - 8) = i by omega]
    · by_cases h3 : i < 22
      · simp [h2, show i - 16 < 6 by omega, show 16 + (i - 16) = i by omega]
      · have e := congrArg (fun b => b.getLsbD (i - 22)) h
        simp only [rsvField, BitVec.getLsbD_extractLsb', show i - 22 < 10 by omega, decide_true, Bool.true_and,
          show 22 + (i - 22) = i by omega, BitVec.getLsbD_zero, BitVec.ofNat_eq_ofNat] at e
        simp [h2, show ¬ i - 16 < 6 by omega, e]

/-! ### The fields as numbers -/

theorem opcField_toNat (v : Word) : (opcField v).toNat = Machine.opcodeOf v := by
  simp [opcField, Machine.opcodeOf, BitVec.extractLsb'_toNat]

theorem immField_toNat (v : Word) : (immField v).toNat = Machine.immOf v := by
  simp [immField, Machine.immOf, BitVec.extractLsb'_toNat, Nat.shiftRight_eq_div_pow]

theorem n6Field_toNat (v : Word) : (n6Field v).toNat = Machine.amountOf v := by
  simp [n6Field, Machine.amountOf, BitVec.extractLsb'_toNat, Nat.shiftRight_eq_div_pow]

theorem rsvField_toNat (v : Word) : (rsvField v).toNat = Machine.reservedOf v := by
  simp only [rsvField, Machine.reservedOf, BitVec.extractLsb'_toNat, Nat.shiftRight_eq_div_pow]
  have := v.isLt
  omega

theorem field_ne_zero {w : Nat} (b : BitVec w) : b ≠ 0 ↔ b.toNat ≠ 0 := by
  constructor
  · intro h e; exact h (BitVec.eq_of_toNat_eq (by simpa using e))
  · intro h e; exact h (by simp [e])

/-! ### The decoder -/

/-- Which opcode selects which command, with its operands from the fields (R73). -/
theorem commandOf_eq_some {opc imm : BitVec 8} {n : BitVec 6} {i : Instr} (h : commandOf opc imm n = some i) :
    i.opcode = opc ∧
    (i = .nop ∨ i = .rotr n.toNat ∨ i = .shr n.toNat ∨ i = .add n.toNat ∨ i = .ch ∨ i = .maj ∨ i = .bsig0 ∨
      i = .bsig1 ∨ i = .ssig0 ∨ i = .ssig1 ∨ i = .init ∨ i = .absorb imm ∨ i = .final ∨ i = .clrerr) := by
  unfold commandOf at h
  split at h <;> first
    | (injection h with h; subst h; exact ⟨BitVec.eq_of_toNat_eq (by simp [Instr.opcode, *]), by simp⟩)
    | exact absurd h (by simp)

/-- Every assigned opcode selects a command, and no other opcode does (R73, R74 check 1). -/
theorem commandOf_isSome (opc imm : BitVec 8) (n : BitVec 6) :
    (∃ i, commandOf opc imm n = some i) ↔ opc.toNat ∈ Machine.assignedOpcodes := by
  unfold commandOf Machine.assignedOpcodes
  split <;> simp_all

/-- The decoder's answer is a command exactly when both of its checks pass. -/
theorem decode_eq_command {v : Word} {i : Instr} (h : decode v = .command i) :
    commandOf (opcField v) (immField v) (n6Field v) = some i ∧ rsvField v = 0 ∧
    (immField v = 0 ∨ usesImm i = true) ∧ (n6Field v = 0 ∨ usesN6 i = true) := by
  unfold decode at h
  cases hc : commandOf (opcField v) (immField v) (n6Field v) with
  | none => rw [hc] at h; simp at h
  | some j =>
    rw [hc] at h
    simp only at h
    split at h
    · simp at h
    · rename_i hn
      injection h with h; subst h
      simp only [not_or, not_and, ne_eq, Bool.not_eq_false, not_not] at hn
      exact ⟨rfl, hn.1, by tauto, by tauto⟩

end Sys2Proof
end

