-- ==== Sys2Proof/Laws/State.lean ====
section
/-! SUPPORT. What each update leaves in each field: one lemma a field, so that no proof unfolds a record update. -/

namespace Sys2Proof.Machine

/-! ### The updates of `STATUS` -/

@[simp] theorem Status.clearError_busy (st : Status) : (st.clearError).busy = st.busy := rfl
@[simp] theorem Status.clearError_done (st : Status) : (st.clearError).done = st.done := rfl
@[simp] theorem Status.clearError_msgOpen (st : Status) : (st.clearError).msgOpen = st.msgOpen := rfl
@[simp] theorem Status.clearError_pend2 (st : Status) : (st.clearError).pend2 = st.pend2 := rfl
@[simp] theorem Status.clearError_finalPend (st : Status) : (st.clearError).finalPend = st.finalPend := rfl
@[simp] theorem Status.clearError_err (st : Status) : (st.clearError).err = false := rfl
@[simp] theorem Status.clearError_multi (st : Status) : (st.clearError).multi = false := rfl
@[simp] theorem Status.clearError_errCode (st : Status) : (st.clearError).errCode = .none := rfl
@[simp] theorem Status.clearError_round (st : Status) : (st.clearError).round = st.round := rfl
@[simp] theorem Status.closeMessage_busy (st : Status) : (st.closeMessage).busy = st.busy := rfl
@[simp] theorem Status.closeMessage_done (st : Status) : (st.closeMessage).done = st.done := rfl
@[simp] theorem Status.closeMessage_msgOpen (st : Status) : (st.closeMessage).msgOpen = false := rfl
@[simp] theorem Status.closeMessage_pend2 (st : Status) : (st.closeMessage).pend2 = st.pend2 := rfl
@[simp] theorem Status.closeMessage_finalPend (st : Status) : (st.closeMessage).finalPend = st.finalPend := rfl
@[simp] theorem Status.closeMessage_err (st : Status) : (st.closeMessage).err = st.err := rfl
@[simp] theorem Status.closeMessage_multi (st : Status) : (st.closeMessage).multi = st.multi := rfl
@[simp] theorem Status.closeMessage_errCode (st : Status) : (st.closeMessage).errCode = st.errCode := rfl
@[simp] theorem Status.closeMessage_round (st : Status) : (st.closeMessage).round = st.round := rfl
@[simp] theorem Status.openMessage_busy (st : Status) : (st.openMessage).busy = st.busy := rfl
@[simp] theorem Status.openMessage_done (st : Status) : (st.openMessage).done = false := rfl
@[simp] theorem Status.openMessage_msgOpen (st : Status) : (st.openMessage).msgOpen = true := rfl
@[simp] theorem Status.openMessage_pend2 (st : Status) : (st.openMessage).pend2 = false := rfl
@[simp] theorem Status.openMessage_finalPend (st : Status) : (st.openMessage).finalPend = false := rfl
@[simp] theorem Status.openMessage_err (st : Status) : (st.openMessage).err = st.err := rfl
@[simp] theorem Status.openMessage_multi (st : Status) : (st.openMessage).multi = st.multi := rfl
@[simp] theorem Status.openMessage_errCode (st : Status) : (st.openMessage).errCode = st.errCode := rfl
@[simp] theorem Status.openMessage_round (st : Status) : (st.openMessage).round = st.round := rfl
@[simp] theorem Status.finalise_busy (st : Status) (b : Bool) : (st.finalise b).busy = st.busy := rfl
@[simp] theorem Status.finalise_done (st : Status) (b : Bool) : (st.finalise b).done = st.done := rfl
@[simp] theorem Status.finalise_msgOpen (st : Status) (b : Bool) : (st.finalise b).msgOpen = false := rfl
@[simp] theorem Status.finalise_pend2 (st : Status) (b : Bool) : (st.finalise b).pend2 = b := rfl
@[simp] theorem Status.finalise_finalPend (st : Status) (b : Bool) : (st.finalise b).finalPend = true := rfl
@[simp] theorem Status.finalise_err (st : Status) (b : Bool) : (st.finalise b).err = st.err := rfl
@[simp] theorem Status.finalise_multi (st : Status) (b : Bool) : (st.finalise b).multi = st.multi := rfl
@[simp] theorem Status.finalise_errCode (st : Status) (b : Bool) : (st.finalise b).errCode = st.errCode := rfl
@[simp] theorem Status.finalise_round (st : Status) (b : Bool) : (st.finalise b).round = st.round := rfl
@[simp] theorem Status.startBlock_busy (st : Status) : (st.startBlock).busy = true := rfl
@[simp] theorem Status.startBlock_done (st : Status) : (st.startBlock).done = st.done := rfl
@[simp] theorem Status.startBlock_msgOpen (st : Status) : (st.startBlock).msgOpen = st.msgOpen := rfl
@[simp] theorem Status.startBlock_pend2 (st : Status) : (st.startBlock).pend2 = st.pend2 := rfl
@[simp] theorem Status.startBlock_finalPend (st : Status) : (st.startBlock).finalPend = st.finalPend := rfl
@[simp] theorem Status.startBlock_err (st : Status) : (st.startBlock).err = st.err := rfl
@[simp] theorem Status.startBlock_multi (st : Status) : (st.startBlock).multi = st.multi := rfl
@[simp] theorem Status.startBlock_errCode (st : Status) : (st.startBlock).errCode = st.errCode := rfl
@[simp] theorem Status.startBlock_round (st : Status) : (st.startBlock).round = 0 := rfl
@[simp] theorem Status.recordError_busy (st : Status) (c : ErrCode) : (st.recordError c).busy = st.busy := by
  unfold Status.recordError; split <;> simp_all
@[simp] theorem Status.recordError_done (st : Status) (c : ErrCode) : (st.recordError c).done = st.done := by
  unfold Status.recordError; split <;> simp_all
@[simp] theorem Status.recordError_msgOpen (st : Status) (c : ErrCode) : (st.recordError c).msgOpen = st.msgOpen := by
  unfold Status.recordError; split <;> simp_all
@[simp] theorem Status.recordError_pend2 (st : Status) (c : ErrCode) : (st.recordError c).pend2 = st.pend2 := by
  unfold Status.recordError; split <;> simp_all
@[simp] theorem Status.recordError_finalPend (st : Status) (c : ErrCode) : (st.recordError c).finalPend = st.finalPend := by
  unfold Status.recordError; split <;> simp_all
@[simp] theorem Status.recordError_err (st : Status) (c : ErrCode) : (st.recordError c).err = true := by
  unfold Status.recordError; split <;> simp_all
@[simp] theorem Status.recordError_round (st : Status) (c : ErrCode) : (st.recordError c).round = st.round := by
  unfold Status.recordError; split <;> simp_all
@[simp] theorem Status.finishBlock_busy (st : Status) : (st.finishBlock).busy = false := by
  unfold Status.finishBlock; split <;> simp_all
@[simp] theorem Status.finishBlock_msgOpen (st : Status) : (st.finishBlock).msgOpen = st.msgOpen := by
  unfold Status.finishBlock; split <;> simp_all
@[simp] theorem Status.finishBlock_pend2 (st : Status) : (st.finishBlock).pend2 = st.pend2 := by
  unfold Status.finishBlock; split <;> simp_all
@[simp] theorem Status.finishBlock_finalPend (st : Status) : (st.finishBlock).finalPend = false := by
  unfold Status.finishBlock; split <;> simp_all
@[simp] theorem Status.finishBlock_err (st : Status) : (st.finishBlock).err = st.err := by
  unfold Status.finishBlock; split <;> simp_all
@[simp] theorem Status.finishBlock_multi (st : Status) : (st.finishBlock).multi = st.multi := by
  unfold Status.finishBlock; split <;> simp_all
@[simp] theorem Status.finishBlock_errCode (st : Status) : (st.finishBlock).errCode = st.errCode := by
  unfold Status.finishBlock; split <;> simp_all
@[simp] theorem Status.finishBlock_round (st : Status) : (st.finishBlock).round = st.round := by
  unfold Status.finishBlock; split <;> simp_all

/-! ### The updates of the state -/

@[simp] theorem setResult_op (s : State) (v : Word) : (setResult v s).op = s.op := rfl
@[simp] theorem setResult_result (s : State) (v : Word) : (setResult v s).result = v := rfl
@[simp] theorem setResult_m (s : State) (v : Word) : (setResult v s).m = s.m := rfl
@[simp] theorem setResult_len (s : State) (v : Word) : (setResult v s).len = s.len := rfl
@[simp] theorem setResult_h (s : State) (v : Word) : (setResult v s).h = s.h := rfl
@[simp] theorem setResult_wv (s : State) (v : Word) : (setResult v s).wv = s.wv := rfl
@[simp] theorem setResult_w (s : State) (v : Word) : (setResult v s).w = s.w := rfl
@[simp] theorem setResult_status (s : State) (v : Word) : (setResult v s).status = s.status := rfl
@[simp] theorem setResult_cfgUpper (s : State) (v : Word) : (setResult v s).cfgUpper = s.cfgUpper := rfl
@[simp] theorem setResult_prog (s : State) (v : Word) : (setResult v s).prog = s.prog := rfl
@[simp] theorem setResult_reads (s : State) (v : Word) : (setResult v s).reads = s.reads := rfl
@[simp] theorem setResult_vars (s : State) (v : Word) : (setResult v s).vars = s.vars := rfl
@[simp] theorem setResult_checks (s : State) (v : Word) : (setResult v s).checks = s.checks := rfl
@[simp] theorem setResult_lags (s : State) (v : Word) : (setResult v s).lags = s.lags := rfl
@[simp] theorem setResult_slack (s : State) (v : Word) : (setResult v s).slack = s.slack := rfl
@[simp] theorem setResult_draws (s : State) (v : Word) : (setResult v s).draws = s.draws := rfl
@[simp] theorem clearError_op (s : State) : (clearError s).op = s.op := rfl
@[simp] theorem clearError_result (s : State) : (clearError s).result = s.result := rfl
@[simp] theorem clearError_m (s : State) : (clearError s).m = s.m := rfl
@[simp] theorem clearError_len (s : State) : (clearError s).len = s.len := rfl
@[simp] theorem clearError_h (s : State) : (clearError s).h = s.h := rfl
@[simp] theorem clearError_wv (s : State) : (clearError s).wv = s.wv := rfl
@[simp] theorem clearError_w (s : State) : (clearError s).w = s.w := rfl
@[simp] theorem clearError_status (s : State) : (clearError s).status = s.status.clearError := rfl
@[simp] theorem clearError_cfgUpper (s : State) : (clearError s).cfgUpper = s.cfgUpper := rfl
@[simp] theorem clearError_prog (s : State) : (clearError s).prog = s.prog := rfl
@[simp] theorem clearError_reads (s : State) : (clearError s).reads = s.reads := rfl
@[simp] theorem clearError_vars (s : State) : (clearError s).vars = s.vars := rfl
@[simp] theorem clearError_checks (s : State) : (clearError s).checks = s.checks := rfl
@[simp] theorem clearError_lags (s : State) : (clearError s).lags = s.lags := rfl
@[simp] theorem clearError_slack (s : State) : (clearError s).slack = s.slack := rfl
@[simp] theorem clearError_draws (s : State) : (clearError s).draws = s.draws := rfl
@[simp] theorem start_op (s : State) : (start s).op = s.op := rfl
@[simp] theorem start_result (s : State) : (start s).result = s.result := rfl
@[simp] theorem start_m (s : State) : (start s).m = s.m := rfl
@[simp] theorem start_len (s : State) : (start s).len = s.len := rfl
@[simp] theorem start_h (s : State) : (start s).h = s.h := rfl
@[simp] theorem start_wv (s : State) : (start s).wv = s.h := rfl
@[simp] theorem start_status (s : State) : (start s).status = s.status.startBlock := rfl
@[simp] theorem start_cfgUpper (s : State) : (start s).cfgUpper = s.cfgUpper := rfl
@[simp] theorem start_prog (s : State) : (start s).prog = s.prog := rfl
@[simp] theorem start_reads (s : State) : (start s).reads = s.reads := rfl
@[simp] theorem start_vars (s : State) : (start s).vars = s.vars := rfl
@[simp] theorem start_checks (s : State) : (start s).checks = s.checks := rfl
@[simp] theorem start_lags (s : State) : (start s).lags = s.lags := rfl
@[simp] theorem start_slack (s : State) : (start s).slack = s.slack := rfl
@[simp] theorem start_draws (s : State) : (start s).draws = s.draws := rfl
@[simp] theorem openMessage_op (s : State) : (openMessage s).op = s.op := rfl
@[simp] theorem openMessage_result (s : State) : (openMessage s).result = s.result := rfl
@[simp] theorem openMessage_m (s : State) : (openMessage s).m = s.m := rfl
@[simp] theorem openMessage_len (s : State) : (openMessage s).len = 0 := rfl
@[simp] theorem openMessage_h (s : State) : (openMessage s).h = iv := rfl
@[simp] theorem openMessage_wv (s : State) : (openMessage s).wv = s.wv := rfl
@[simp] theorem openMessage_w (s : State) : (openMessage s).w = s.w := rfl
@[simp] theorem openMessage_status (s : State) : (openMessage s).status = s.status.openMessage := rfl
@[simp] theorem openMessage_cfgUpper (s : State) : (openMessage s).cfgUpper = s.cfgUpper := rfl
@[simp] theorem openMessage_prog (s : State) : (openMessage s).prog = s.prog := rfl
@[simp] theorem openMessage_reads (s : State) : (openMessage s).reads = s.reads := rfl
@[simp] theorem openMessage_vars (s : State) : (openMessage s).vars = s.vars := rfl
@[simp] theorem openMessage_checks (s : State) : (openMessage s).checks = s.checks := rfl
@[simp] theorem openMessage_lags (s : State) : (openMessage s).lags = s.lags := rfl
@[simp] theorem openMessage_slack (s : State) : (openMessage s).slack = s.slack := rfl
@[simp] theorem openMessage_draws (s : State) : (openMessage s).draws = s.draws := rfl
@[simp] theorem reject_op (s : State) (c : ErrCode) : (reject c s).op = s.op := by
  cases c <;> rfl
@[simp] theorem reject_result (s : State) (c : ErrCode) : (reject c s).result = s.result := by
  cases c <;> rfl
@[simp] theorem reject_m (s : State) (c : ErrCode) : (reject c s).m = s.m := by
  cases c <;> rfl
@[simp] theorem reject_len (s : State) (c : ErrCode) : (reject c s).len = s.len := by
  cases c <;> rfl
@[simp] theorem reject_h (s : State) (c : ErrCode) : (reject c s).h = s.h := by
  cases c <;> rfl
@[simp] theorem reject_wv (s : State) (c : ErrCode) : (reject c s).wv = s.wv := by
  cases c <;> rfl
@[simp] theorem reject_w (s : State) (c : ErrCode) : (reject c s).w = s.w := by
  cases c <;> rfl
@[simp] theorem reject_cfgUpper (s : State) (c : ErrCode) : (reject c s).cfgUpper = s.cfgUpper := by
  cases c <;> rfl
@[simp] theorem reject_prog (s : State) (c : ErrCode) : (reject c s).prog = s.prog := by
  cases c <;> rfl
@[simp] theorem reject_reads (s : State) (c : ErrCode) : (reject c s).reads = s.reads := by
  cases c <;> rfl
@[simp] theorem reject_vars (s : State) (c : ErrCode) : (reject c s).vars = s.vars := by
  cases c <;> rfl
@[simp] theorem reject_checks (s : State) (c : ErrCode) : (reject c s).checks = s.checks := by
  cases c <;> rfl
@[simp] theorem reject_lags (s : State) (c : ErrCode) : (reject c s).lags = s.lags := by
  cases c <;> rfl
@[simp] theorem reject_slack (s : State) (c : ErrCode) : (reject c s).slack = s.slack := by
  cases c <;> rfl
@[simp] theorem reject_draws (s : State) (c : ErrCode) : (reject c s).draws = s.draws := by
  cases c <;> rfl
@[simp] theorem absorbByte_op (s : State) (b : Byte) : (absorbByte b s).op = s.op := by
  unfold absorbByte; dsimp only; split <;> rfl
@[simp] theorem absorbByte_result (s : State) (b : Byte) : (absorbByte b s).result = s.result := by
  unfold absorbByte; dsimp only; split <;> rfl
@[simp] theorem absorbByte_m (s : State) (b : Byte) : (absorbByte b s).m = putByte s.m (bytePos s.len) b := by
  unfold absorbByte; dsimp only; split <;> rfl
@[simp] theorem absorbByte_len (s : State) (b : Byte) : (absorbByte b s).len = s.len + 8 := by
  unfold absorbByte; dsimp only; split <;> rfl
@[simp] theorem absorbByte_h (s : State) (b : Byte) : (absorbByte b s).h = s.h := by
  unfold absorbByte; dsimp only; split <;> rfl
@[simp] theorem absorbByte_cfgUpper (s : State) (b : Byte) : (absorbByte b s).cfgUpper = s.cfgUpper := by
  unfold absorbByte; dsimp only; split <;> rfl
@[simp] theorem absorbByte_prog (s : State) (b : Byte) : (absorbByte b s).prog = s.prog := by
  unfold absorbByte; dsimp only; split <;> rfl
@[simp] theorem absorbByte_reads (s : State) (b : Byte) : (absorbByte b s).reads = s.reads := by
  unfold absorbByte; dsimp only; split <;> rfl
@[simp] theorem absorbByte_vars (s : State) (b : Byte) : (absorbByte b s).vars = s.vars := by
  unfold absorbByte; dsimp only; split <;> rfl
@[simp] theorem absorbByte_checks (s : State) (b : Byte) : (absorbByte b s).checks = s.checks := by
  unfold absorbByte; dsimp only; split <;> rfl
@[simp] theorem absorbByte_lags (s : State) (b : Byte) : (absorbByte b s).lags = s.lags := by
  unfold absorbByte; dsimp only; split <;> rfl
@[simp] theorem absorbByte_slack (s : State) (b : Byte) : (absorbByte b s).slack = s.slack := by
  unfold absorbByte; dsimp only; split <;> rfl
@[simp] theorem absorbByte_draws (s : State) (b : Byte) : (absorbByte b s).draws = s.draws := by
  unfold absorbByte; dsimp only; split <;> rfl
@[simp] theorem finaliseMessage_op (s : State) : (finaliseMessage s).op = s.op := rfl
@[simp] theorem finaliseMessage_result (s : State) : (finaliseMessage s).result = s.result := rfl
@[simp] theorem finaliseMessage_m (s : State) : (finaliseMessage s).m = finalBlock s.m s.len := rfl
@[simp] theorem finaliseMessage_len (s : State) : (finaliseMessage s).len = s.len := rfl
@[simp] theorem finaliseMessage_h (s : State) : (finaliseMessage s).h = s.h := rfl
@[simp] theorem finaliseMessage_wv (s : State) : (finaliseMessage s).wv = s.h := rfl
@[simp] theorem finaliseMessage_status (s : State) : (finaliseMessage s).status = (s.status.finalise (decide (55 < (bytePos s.len).val))).startBlock := rfl
@[simp] theorem finaliseMessage_cfgUpper (s : State) : (finaliseMessage s).cfgUpper = s.cfgUpper := rfl
@[simp] theorem finaliseMessage_prog (s : State) : (finaliseMessage s).prog = s.prog := rfl
@[simp] theorem finaliseMessage_reads (s : State) : (finaliseMessage s).reads = s.reads := rfl
@[simp] theorem finaliseMessage_vars (s : State) : (finaliseMessage s).vars = s.vars := rfl
@[simp] theorem finaliseMessage_checks (s : State) : (finaliseMessage s).checks = s.checks := rfl
@[simp] theorem finaliseMessage_lags (s : State) : (finaliseMessage s).lags = s.lags := rfl
@[simp] theorem finaliseMessage_slack (s : State) : (finaliseMessage s).slack = s.slack := rfl
@[simp] theorem finaliseMessage_draws (s : State) : (finaliseMessage s).draws = s.draws := rfl
@[simp] theorem roundStep_op (s : State) (t : Fin 64) : (roundStep t s).op = s.op := rfl
@[simp] theorem roundStep_result (s : State) (t : Fin 64) : (roundStep t s).result = s.result := rfl
@[simp] theorem roundStep_m (s : State) (t : Fin 64) : (roundStep t s).m = s.m := rfl
@[simp] theorem roundStep_len (s : State) (t : Fin 64) : (roundStep t s).len = s.len := rfl
@[simp] theorem roundStep_h (s : State) (t : Fin 64) : (roundStep t s).h = s.h := rfl
@[simp] theorem roundStep_wv (s : State) (t : Fin 64) : (roundStep t s).wv = roundVars s.wv kRom[t] (extendSchedule s.w t)[t] := rfl
@[simp] theorem roundStep_w (s : State) (t : Fin 64) : (roundStep t s).w = extendSchedule s.w t := rfl
@[simp] theorem roundStep_cfgUpper (s : State) (t : Fin 64) : (roundStep t s).cfgUpper = s.cfgUpper := rfl
@[simp] theorem roundStep_prog (s : State) (t : Fin 64) : (roundStep t s).prog = s.prog := rfl
@[simp] theorem roundStep_reads (s : State) (t : Fin 64) : (roundStep t s).reads = s.reads := rfl
@[simp] theorem roundStep_vars (s : State) (t : Fin 64) : (roundStep t s).vars = s.vars := rfl
@[simp] theorem roundStep_checks (s : State) (t : Fin 64) : (roundStep t s).checks = s.checks := rfl
@[simp] theorem roundStep_lags (s : State) (t : Fin 64) : (roundStep t s).lags = s.lags := rfl
@[simp] theorem roundStep_slack (s : State) (t : Fin 64) : (roundStep t s).slack = s.slack := rfl
@[simp] theorem roundStep_draws (s : State) (t : Fin 64) : (roundStep t s).draws = s.draws := rfl
@[simp] theorem roundStep_status_busy (s : State) (t : Fin 64) : (roundStep t s).status.busy = s.status.busy := rfl
@[simp] theorem roundStep_status_done (s : State) (t : Fin 64) : (roundStep t s).status.done = s.status.done := rfl
@[simp] theorem roundStep_status_msgOpen (s : State) (t : Fin 64) : (roundStep t s).status.msgOpen = s.status.msgOpen := rfl
@[simp] theorem roundStep_status_pend2 (s : State) (t : Fin 64) : (roundStep t s).status.pend2 = s.status.pend2 := rfl
@[simp] theorem roundStep_status_finalPend (s : State) (t : Fin 64) : (roundStep t s).status.finalPend = s.status.finalPend := rfl
@[simp] theorem roundStep_status_err (s : State) (t : Fin 64) : (roundStep t s).status.err = s.status.err := rfl
@[simp] theorem roundStep_status_multi (s : State) (t : Fin 64) : (roundStep t s).status.multi = s.status.multi := rfl
@[simp] theorem roundStep_status_errCode (s : State) (t : Fin 64) : (roundStep t s).status.errCode = s.status.errCode := rfl
@[simp] theorem roundStep_status_round (s : State) (t : Fin 64) : (roundStep t s).status.round = t.succ := rfl
@[simp] theorem feedForward_op (s : State) : (feedForward s).op = s.op := by
  unfold feedForward; dsimp only; split <;> rfl
@[simp] theorem feedForward_result (s : State) : (feedForward s).result = s.result := by
  unfold feedForward; dsimp only; split <;> rfl
@[simp] theorem feedForward_m (s : State) : (feedForward s).m = if s.status.pend2 then lengthBlock s.len else s.m := by
  unfold feedForward; dsimp only; split <;> rfl
@[simp] theorem feedForward_len (s : State) : (feedForward s).len = s.len := by
  unfold feedForward; dsimp only; split <;> rfl
@[simp] theorem feedForward_h (s : State) : (feedForward s).h = addHash s.h s.wv := by
  unfold feedForward; dsimp only; split <;> rfl
@[simp] theorem feedForward_status (s : State) : (feedForward s).status = if s.status.pend2 then { s.status with pend2 := false, round := 0, busy := true } else s.status.finishBlock := by
  unfold feedForward; dsimp only; split <;> rfl
@[simp] theorem feedForward_cfgUpper (s : State) : (feedForward s).cfgUpper = s.cfgUpper := by
  unfold feedForward; dsimp only; split <;> rfl
@[simp] theorem feedForward_prog (s : State) : (feedForward s).prog = s.prog := by
  unfold feedForward; dsimp only; split <;> rfl
@[simp] theorem feedForward_reads (s : State) : (feedForward s).reads = s.reads := by
  unfold feedForward; dsimp only; split <;> rfl
@[simp] theorem feedForward_vars (s : State) : (feedForward s).vars = s.vars := by
  unfold feedForward; dsimp only; split <;> rfl
@[simp] theorem feedForward_checks (s : State) : (feedForward s).checks = s.checks := by
  unfold feedForward; dsimp only; split <;> rfl
@[simp] theorem feedForward_lags (s : State) : (feedForward s).lags = s.lags := by
  unfold feedForward; dsimp only; split <;> rfl
@[simp] theorem feedForward_slack (s : State) : (feedForward s).slack = s.slack := by
  unfold feedForward; dsimp only; split <;> rfl
@[simp] theorem feedForward_draws (s : State) : (feedForward s).draws = s.draws := by
  unfold feedForward; dsimp only; split <;> rfl
@[simp] theorem takeStmt_op (s : State) (rest : List HostStmt) : (takeStmt rest s).op = s.op := rfl
@[simp] theorem takeStmt_result (s : State) (rest : List HostStmt) : (takeStmt rest s).result = s.result := rfl
@[simp] theorem takeStmt_m (s : State) (rest : List HostStmt) : (takeStmt rest s).m = s.m := rfl
@[simp] theorem takeStmt_len (s : State) (rest : List HostStmt) : (takeStmt rest s).len = s.len := rfl
@[simp] theorem takeStmt_h (s : State) (rest : List HostStmt) : (takeStmt rest s).h = s.h := rfl
@[simp] theorem takeStmt_wv (s : State) (rest : List HostStmt) : (takeStmt rest s).wv = s.wv := rfl
@[simp] theorem takeStmt_w (s : State) (rest : List HostStmt) : (takeStmt rest s).w = s.w := rfl
@[simp] theorem takeStmt_status (s : State) (rest : List HostStmt) : (takeStmt rest s).status = s.status := rfl
@[simp] theorem takeStmt_cfgUpper (s : State) (rest : List HostStmt) : (takeStmt rest s).cfgUpper = s.cfgUpper := rfl
@[simp] theorem takeStmt_prog (s : State) (rest : List HostStmt) : (takeStmt rest s).prog = rest := rfl
@[simp] theorem takeStmt_reads (s : State) (rest : List HostStmt) : (takeStmt rest s).reads = s.reads := rfl
@[simp] theorem takeStmt_vars (s : State) (rest : List HostStmt) : (takeStmt rest s).vars = s.vars := rfl
@[simp] theorem takeStmt_checks (s : State) (rest : List HostStmt) : (takeStmt rest s).checks = s.checks := rfl
@[simp] theorem takeStmt_lags (s : State) (rest : List HostStmt) : (takeStmt rest s).lags = s.lags := rfl
@[simp] theorem takeStmt_slack (s : State) (rest : List HostStmt) : (takeStmt rest s).slack = if s.status.busy then s.slack - 1 else s.slack := rfl
@[simp] theorem takeStmt_draws (s : State) (rest : List HostStmt) : (takeStmt rest s).draws = s.draws := rfl
@[simp] theorem placeCommand_op (s : State) (v : Word) : (placeCommand v s).op = s.op := rfl
@[simp] theorem placeCommand_result (s : State) (v : Word) : (placeCommand v s).result = s.result := rfl
@[simp] theorem placeCommand_m (s : State) (v : Word) : (placeCommand v s).m = s.m := rfl
@[simp] theorem placeCommand_len (s : State) (v : Word) : (placeCommand v s).len = s.len := rfl
@[simp] theorem placeCommand_h (s : State) (v : Word) : (placeCommand v s).h = s.h := rfl
@[simp] theorem placeCommand_wv (s : State) (v : Word) : (placeCommand v s).wv = s.wv := rfl
@[simp] theorem placeCommand_w (s : State) (v : Word) : (placeCommand v s).w = s.w := rfl
@[simp] theorem placeCommand_status (s : State) (v : Word) : (placeCommand v s).status = s.status := rfl
@[simp] theorem placeCommand_cfgUpper (s : State) (v : Word) : (placeCommand v s).cfgUpper = s.cfgUpper := rfl
@[simp] theorem placeCommand_prog (s : State) (v : Word) : (placeCommand v s).prog = .write Reg.cmd.offset Config.busBytes (.lit v) :: s.prog := rfl
@[simp] theorem placeCommand_reads (s : State) (v : Word) : (placeCommand v s).reads = s.reads := rfl
@[simp] theorem placeCommand_vars (s : State) (v : Word) : (placeCommand v s).vars = s.vars := rfl
@[simp] theorem placeCommand_checks (s : State) (v : Word) : (placeCommand v s).checks = s.checks := rfl
@[simp] theorem placeCommand_lags (s : State) (v : Word) : (placeCommand v s).lags = s.lags := rfl
@[simp] theorem placeCommand_slack (s : State) (v : Word) : (placeCommand v s).slack = if s.status.busy then s.slack + 1 else s.slack := rfl
@[simp] theorem placeCommand_draws (s : State) (v : Word) : (placeCommand v s).draws = s.draws := rfl
@[simp] theorem drawSlack_op (s : State) : (drawSlack s).op = s.op := by
  unfold drawSlack; split <;> rfl
@[simp] theorem drawSlack_result (s : State) : (drawSlack s).result = s.result := by
  unfold drawSlack; split <;> rfl
@[simp] theorem drawSlack_m (s : State) : (drawSlack s).m = s.m := by
  unfold drawSlack; split <;> rfl
@[simp] theorem drawSlack_len (s : State) : (drawSlack s).len = s.len := by
  unfold drawSlack; split <;> rfl
@[simp] theorem drawSlack_h (s : State) : (drawSlack s).h = s.h := by
  unfold drawSlack; split <;> rfl
@[simp] theorem drawSlack_wv (s : State) : (drawSlack s).wv = s.wv := by
  unfold drawSlack; split <;> rfl
@[simp] theorem drawSlack_w (s : State) : (drawSlack s).w = s.w := by
  unfold drawSlack; split <;> rfl
@[simp] theorem drawSlack_status (s : State) : (drawSlack s).status = s.status := by
  unfold drawSlack; split <;> rfl
@[simp] theorem drawSlack_cfgUpper (s : State) : (drawSlack s).cfgUpper = s.cfgUpper := by
  unfold drawSlack; split <;> rfl
@[simp] theorem drawSlack_prog (s : State) : (drawSlack s).prog = s.prog := by
  unfold drawSlack; split <;> rfl
@[simp] theorem drawSlack_reads (s : State) : (drawSlack s).reads = s.reads := by
  unfold drawSlack; split <;> rfl
@[simp] theorem drawSlack_vars (s : State) : (drawSlack s).vars = s.vars := by
  unfold drawSlack; split <;> rfl
@[simp] theorem drawSlack_checks (s : State) : (drawSlack s).checks = s.checks := by
  unfold drawSlack; split <;> rfl
@[simp] theorem resetCore_op (s : State) : (resetCore s).op = State.reset.op := rfl
@[simp] theorem resetCore_result (s : State) : (resetCore s).result = State.reset.result := rfl
@[simp] theorem resetCore_m (s : State) : (resetCore s).m = State.reset.m := rfl
@[simp] theorem resetCore_len (s : State) : (resetCore s).len = State.reset.len := rfl
@[simp] theorem resetCore_h (s : State) : (resetCore s).h = State.reset.h := rfl
@[simp] theorem resetCore_wv (s : State) : (resetCore s).wv = State.reset.wv := rfl
@[simp] theorem resetCore_w (s : State) : (resetCore s).w = State.reset.w := rfl
@[simp] theorem resetCore_status (s : State) : (resetCore s).status = State.reset.status := rfl
@[simp] theorem resetCore_cfgUpper (s : State) : (resetCore s).cfgUpper = State.reset.cfgUpper := rfl
@[simp] theorem resetCore_prog (s : State) : (resetCore s).prog = s.prog := rfl
@[simp] theorem resetCore_reads (s : State) : (resetCore s).reads = s.reads := rfl
@[simp] theorem resetCore_vars (s : State) : (resetCore s).vars = s.vars := rfl
@[simp] theorem resetCore_checks (s : State) : (resetCore s).checks = s.checks := rfl
@[simp] theorem resetCore_lags (s : State) : (resetCore s).lags = s.lags := rfl
@[simp] theorem resetCore_slack (s : State) : (resetCore s).slack = s.slack := rfl
@[simp] theorem resetCore_draws (s : State) : (resetCore s).draws = s.draws := rfl
@[simp] theorem armEngine_op (s : State) (b : State) : (armEngine b s).op = s.op := by
  unfold armEngine; split <;> simp
@[simp] theorem armEngine_result (s : State) (b : State) : (armEngine b s).result = s.result := by
  unfold armEngine; split <;> simp
@[simp] theorem armEngine_m (s : State) (b : State) : (armEngine b s).m = s.m := by
  unfold armEngine; split <;> simp
@[simp] theorem armEngine_len (s : State) (b : State) : (armEngine b s).len = s.len := by
  unfold armEngine; split <;> simp
@[simp] theorem armEngine_h (s : State) (b : State) : (armEngine b s).h = s.h := by
  unfold armEngine; split <;> simp
@[simp] theorem armEngine_wv (s : State) (b : State) : (armEngine b s).wv = s.wv := by
  unfold armEngine; split <;> simp
@[simp] theorem armEngine_w (s : State) (b : State) : (armEngine b s).w = s.w := by
  unfold armEngine; split <;> simp
@[simp] theorem armEngine_status (s : State) (b : State) : (armEngine b s).status = s.status := by
  unfold armEngine; split <;> simp
@[simp] theorem armEngine_cfgUpper (s : State) (b : State) : (armEngine b s).cfgUpper = s.cfgUpper := by
  unfold armEngine; split <;> simp
@[simp] theorem armEngine_prog (s : State) (b : State) : (armEngine b s).prog = s.prog := by
  unfold armEngine; split <;> simp
@[simp] theorem armEngine_reads (s : State) (b : State) : (armEngine b s).reads = s.reads := by
  unfold armEngine; split <;> simp
@[simp] theorem armEngine_vars (s : State) (b : State) : (armEngine b s).vars = s.vars := by
  unfold armEngine; split <;> simp
@[simp] theorem armEngine_checks (s : State) (b : State) : (armEngine b s).checks = s.checks := by
  unfold armEngine; split <;> simp
@[simp] theorem keepRead_op (s : State) (use : ReadUse) (x : Word) : (keepRead use x s).op = s.op := by
  cases use <;> rfl
@[simp] theorem keepRead_result (s : State) (use : ReadUse) (x : Word) : (keepRead use x s).result = s.result := by
  cases use <;> rfl
@[simp] theorem keepRead_m (s : State) (use : ReadUse) (x : Word) : (keepRead use x s).m = s.m := by
  cases use <;> rfl
@[simp] theorem keepRead_len (s : State) (use : ReadUse) (x : Word) : (keepRead use x s).len = s.len := by
  cases use <;> rfl
@[simp] theorem keepRead_h (s : State) (use : ReadUse) (x : Word) : (keepRead use x s).h = s.h := by
  cases use <;> rfl
@[simp] theorem keepRead_wv (s : State) (use : ReadUse) (x : Word) : (keepRead use x s).wv = s.wv := by
  cases use <;> rfl
@[simp] theorem keepRead_w (s : State) (use : ReadUse) (x : Word) : (keepRead use x s).w = s.w := by
  cases use <;> rfl
@[simp] theorem keepRead_status (s : State) (use : ReadUse) (x : Word) : (keepRead use x s).status = s.status := by
  cases use <;> rfl
@[simp] theorem keepRead_cfgUpper (s : State) (use : ReadUse) (x : Word) : (keepRead use x s).cfgUpper = s.cfgUpper := by
  cases use <;> rfl
@[simp] theorem keepRead_prog (s : State) (use : ReadUse) (x : Word) : (keepRead use x s).prog = s.prog := by
  cases use <;> rfl
@[simp] theorem keepRead_reads (s : State) (use : ReadUse) (x : Word) : (keepRead use x s).reads = x :: s.reads := by
  cases use <;> rfl
@[simp] theorem keepRead_lags (s : State) (use : ReadUse) (x : Word) : (keepRead use x s).lags = s.lags := by
  cases use <;> rfl
@[simp] theorem keepRead_slack (s : State) (use : ReadUse) (x : Word) : (keepRead use x s).slack = s.slack := by
  cases use <;> rfl
@[simp] theorem keepRead_draws (s : State) (use : ReadUse) (x : Word) : (keepRead use x s).draws = s.draws := by
  cases use <;> rfl

/-! ### The host's values (30_encoding.md R77) -/

@[simp] theorem valueOf_lit (v : Word) (s : State) : valueOf (.lit v) s = v := rfl

theorem valueOf_congr (x : HostVal) {s t : State} (h : t.vars = s.vars) : valueOf x t = valueOf x s := by
  cases x <;> simp [valueOf, h]

@[simp] theorem valueOf_takeStmt (x : HostVal) (rest : List HostStmt) (s : State) :
    valueOf x (takeStmt rest s) = valueOf x s := valueOf_congr x rfl

/-- After `rd REG -> name` the name stands for the Word read, and every other name for what it did. -/
theorem valueOf_bind (m n : Nat) (x : Word) (s : State) :
    valueOf (.name m) (keepRead (.bind n) x s) = if m = n then x else valueOf (.name m) s := by
  by_cases h : m = n
  · simp [valueOf, keepRead, h]
  · have hb : (m == n) = false := by simpa using h
    simp [valueOf, keepRead, List.lookup, h, hb]

end Sys2Proof.Machine
end

