-- ==== Sys2Proof/Laws/Ops.lean ====
section
/-! SUPPORT. One lemma a shared operation: bytes of the Block register, the final Block, `Start()`, rejections and the
outcome of a write to `CMD`. -/

namespace Sys2Proof.Machine

/-! ### Rejections (60_exceptions.md R171, R178) -/

theorem reject_status (c : ErrCode) (s : State) (hc : c ≠ .inputTooLarge) :
    (reject c s).status = s.status.recordError c := by
  cases c <;> first | rfl | exact absurd rfl hc

@[simp] theorem reject_inputTooLarge_status (s : State) :
    (reject .inputTooLarge s).status = (s.status.recordError .inputTooLarge).closeMessage := rfl

theorem recordError_errCode (st : Status) (c : ErrCode) :
    (st.recordError c).errCode = if st.err then st.errCode else c := by
  unfold Status.recordError; split <;> simp_all

theorem recordError_multi (st : Status) (c : ErrCode) :
    (st.recordError c).multi = if st.err then true else st.multi := by
  unfold Status.recordError; split <;> simp_all

/-- Whatever the code, a rejection leaves every flag but the record and `MSG_OPEN` as it was. -/
theorem reject_flags (c : ErrCode) (s : State) :
    (reject c s).status.busy = s.status.busy ∧ (reject c s).status.done = s.status.done ∧
    (reject c s).status.pend2 = s.status.pend2 ∧ (reject c s).status.finalPend = s.status.finalPend ∧
    (reject c s).status.round = s.status.round ∧ (reject c s).status.err = true := by
  cases c <;> simp [reject]

/-! ### Bytes of the Block register (41_padder.md R112) -/

theorem getByte_bit (m : Block) (k : Fin 64) (i : Nat) (hi : i < 8) :
    (getByte m k).getLsbD i = (m[k.val / 4]).getLsbD (laneShift k + i) := by
  simp [getByte, hi]

theorem putByte_word (m : Block) (k : Fin 64) (b : Byte) (w : Nat) (hw : w < 16) (h : w ≠ k.val / 4) :
    (putByte m k b)[w] = m[w] := by
  simp [putByte, Ne.symm h]

theorem putByte_bit (m : Block) (k : Fin 64) (b : Byte) (i : Nat) (hi : i < 32) :
    ((putByte m k b)[k.val / 4]).getLsbD i =
      if laneShift k ≤ i ∧ i < laneShift k + 8 then b.getLsbD (i - laneShift k) else (m[k.val / 4]).getLsbD i := by
  have hone : ∀ j, (0xFF#32).getLsbD j = decide (j < 8) := by
    intro j
    by_cases hj : j < 32
    · have : ∀ j : Fin 32, (0xFF#32).getLsbD j.val = decide (j.val < 8) := by decide
      exact this ⟨j, hj⟩
    · rw [BitVec.getLsbD_of_ge _ _ (by omega)]; simp; omega
  simp only [putByte, Vector.getElem_set_self, BitVec.getLsbD_or, BitVec.getLsbD_and, BitVec.getLsbD_not,
    BitVec.getLsbD_shiftLeft, BitVec.getLsbD_setWidth, hone]
  by_cases h1 : i < laneShift k
  · simp [h1, hi, show ¬ laneShift k ≤ i by omega]
  · by_cases h2 : i < laneShift k + 8
    · simp [h1, hi, show laneShift k ≤ i by omega, h2, show i - laneShift k < 8 by omega,
        show i - laneShift k < 32 by omega]
    · simp [h1, hi, h2, show ¬ i - laneShift k < 8 by omega, BitVec.getLsbD_of_ge b (i - laneShift k) (by omega)]

theorem laneShift_le (k : Fin 64) : laneShift k ≤ 24 := by unfold laneShift; omega

@[simp] theorem getByte_putByte_self (m : Block) (k : Fin 64) (b : Byte) : getByte (putByte m k b) k = b := by
  apply BitVec.eq_of_getLsbD_eq
  intro i hi
  have := laneShift_le k
  rw [getByte_bit _ _ _ hi, putByte_bit _ _ _ _ (by omega)]
  simp [hi]

theorem getByte_putByte_ne (m : Block) (k j : Fin 64) (b : Byte) (h : j ≠ k) :
    getByte (putByte m k b) j = getByte m j := by
  have hne : j.val ≠ k.val := fun e => h (Fin.ext e)
  apply BitVec.eq_of_getLsbD_eq
  intro i hi
  rw [getByte_bit _ _ _ hi, getByte_bit _ _ _ hi]
  by_cases hw : j.val / 4 = k.val / 4
  · have := laneShift_le j
    have hsh : ¬ (laneShift k ≤ laneShift j + i ∧ laneShift j + i < laneShift k + 8) := by
      unfold laneShift; omega
    simp only [hw]
    rw [putByte_bit _ _ _ _ (by omega), if_neg hsh]
  · rw [putByte_word _ _ _ _ _ hw]

theorem getByte_putByte (m : Block) (k j : Fin 64) (b : Byte) :
    getByte (putByte m k b) j = if j = k then b else getByte m j := by
  by_cases h : j = k
  · subst h; simp
  · simp [h, getByte_putByte_ne _ _ _ _ h]

/-- A Block is its 64 bytes. -/
theorem block_ext_bytes {m m' : Block} (h : ∀ j : Fin 64, getByte m j = getByte m' j) : m = m' := by
  apply Vector.ext
  intro w hw
  apply BitVec.eq_of_getLsbD_eq
  intro i hi
  let j : Fin 64 := ⟨4 * w + (3 - i / 8), by omega⟩
  have e := congrArg (fun b => b.getLsbD (i % 8)) (h j)
  simp only [getByte_bit _ _ _ (Nat.mod_lt i (by decide : 0 < 8))] at e
  have hj : j.val / 4 = w := by show (4 * w + (3 - i / 8)) / 4 = w; omega
  have hl : laneShift j + i % 8 = i := by
    show 24 - 8 * ((4 * w + (3 - i / 8)) % 4) + i % 8 = i; omega
  simpa only [hj, hl] using e

/-- The fold of `zeroAfter` over any list of positions. -/
theorem getByte_zeroFold (r : Fin 64) (l : List (Fin 64)) (m : Block) (j : Fin 64) :
    getByte (l.foldl (fun m k => if r < k then putByte m k 0 else m) m) j =
      if j ∈ l ∧ r < j then 0 else getByte m j := by
  induction l generalizing m with
  | nil => simp
  | cons k l ih =>
    rw [List.foldl_cons, ih]
    by_cases hjl : j ∈ l ∧ r < j
    · simp [hjl]
    · rw [if_neg hjl]
      by_cases hrk : r < k
      · rw [if_pos hrk, getByte_putByte]
        by_cases hjk : j = k
        · subst hjk; simp [hrk]
        · simp only [hjk, if_false, List.mem_cons, false_or]; rw [if_neg hjl]
      · rw [if_neg hrk]
        by_cases hjk : j = k
        · subst hjk; simp [hrk]
        · simp only [List.mem_cons, hjk, false_or]; rw [if_neg hjl]

theorem getByte_zeroAfter (m : Block) (r j : Fin 64) :
    getByte (zeroAfter m r) j = if r < j then 0 else getByte m j := by
  simpa [zeroAfter] using getByte_zeroFold r (List.finRange 64) m j

theorem getByte_putLength (m : Block) (len : BitVec 64) (j : Fin 64) :
    getByte (putLength m len) j =
      if 56 ≤ j.val then BitVec.ofNat 8 (len.toNat / 2 ^ (8 * (63 - j.val))) else getByte m j := by
  apply BitVec.eq_of_getLsbD_eq
  intro i hi
  rw [getByte_bit _ _ _ hi]
  have hofNat : ∀ n, (BitVec.ofNat 8 (len.toNat / 2 ^ n)).getLsbD i = len.getLsbD (n + i) := by
    intro n
    rw [BitVec.getLsbD_ofNat, Nat.testBit_div_two_pow, Nat.add_comm]
    simp [hi, BitVec.getLsbD]
  by_cases h : 56 ≤ j.val
  · rw [if_pos h, hofNat]
    by_cases h15 : 60 ≤ j.val
    · have e : j.val / 4 = 15 := by omega
      simp only [putLength, e, lenLo, Vector.getElem_set_self, BitVec.getLsbD_extractLsb']
      have : laneShift j + i < 32 := by have := laneShift_le j; omega
      simp only [this, decide_true, Bool.true_and]
      congr 1; unfold laneShift; omega
    · have e : j.val / 4 = 14 := by omega
      simp only [putLength, e, lenHi]
      rw [Vector.getElem_set_ne _ _ (by decide), Vector.getElem_set_self, BitVec.getLsbD_extractLsb']
      have : laneShift j + i < 32 := by have := laneShift_le j; omega
      simp only [this, decide_true, Bool.true_and]
      congr 1; unfold laneShift; omega
  · rw [if_neg h, getByte_bit _ _ _ hi]
    have h1 : ¬ 15 = j.val / 4 := by omega
    have h2 : ¬ 14 = j.val / 4 := by omega
    simp [putLength, h1, h2]

@[simp] theorem bytePos_val (len : BitVec 64) : (bytePos len).val = len.toNat / 8 % 64 := by
  simp [bytePos, Nat.shiftRight_eq_div_pow]

/-- The Block `FINAL` makes, byte by byte (41_padder.md R115). -/
theorem getByte_finalBlock (m : Block) (len : BitVec 64) (j : Fin 64) :
    getByte (finalBlock m len) j =
      if j.val < (bytePos len).val then getByte m j
      else if j.val = (bytePos len).val then 0x80
      else if (bytePos len).val ≤ 55 ∧ 56 ≤ j.val then BitVec.ofNat 8 (len.toNat / 2 ^ (8 * (63 - j.val)))
      else 0 := by
  generalize hr : bytePos len = r
  have hpad : getByte (zeroAfter (putByte m r 0x80) r) j =
      if j.val < r.val then getByte m j else if j.val = r.val then 0x80 else 0 := by
    rw [getByte_zeroAfter, getByte_putByte]
    by_cases h1 : j.val < r.val
    · have : ¬ r < j := by rw [Fin.lt_def]; omega
      have h2 : j ≠ r := by intro e; subst e; omega
      simp [h1, this, h2]
    · by_cases h2 : j.val = r.val
      · have : j = r := Fin.ext h2
        simp [this]
      · have : r < j := by rw [Fin.lt_def]; omega
        simp [h1, h2, this]
  by_cases h55 : r.val ≤ 55
  · have : finalBlock m len = putLength (zeroAfter (putByte m r 0x80) r) len := by
      simp only [finalBlock, hr, if_pos h55]
    rw [this, getByte_putLength, hpad]
    by_cases h56 : 56 ≤ j.val
    · simp [h56, show ¬ j.val < r.val by omega, show ¬ j.val = r.val by omega, h55]
    · simp [h56]
  · have : finalBlock m len = zeroAfter (putByte m r 0x80) r := by
      simp only [finalBlock, hr, if_neg h55]
    rw [this, hpad]; simp [h55]

theorem getByte_zeros (j : Fin 64) : getByte (Vector.replicate 16 0) j = 0 := by
  apply BitVec.eq_of_getLsbD_eq
  intro i hi
  simp [getByte_bit _ _ _ hi]

/-- The length-only Block, byte by byte (41_padder.md R116). -/
theorem getByte_lengthBlock (len : BitVec 64) (j : Fin 64) :
    getByte (lengthBlock len) j =
      if 56 ≤ j.val then BitVec.ofNat 8 (len.toNat / 2 ^ (8 * (63 - j.val))) else 0 := by
  rw [lengthBlock, getByte_putLength, getByte_zeros]

/-! ### `Start()` (42_compressor.md R131) -/

theorem start_w_low (s : State) (t : Nat) (ht : t < 16) : (start s).w[t] = s.m[t] := by
  simp [start, ht]

theorem start_w_high (s : State) (t : Nat) (h16 : 16 ≤ t) (ht : t < 64) : (start s).w[t] = s.w[t] := by
  simp [start, show ¬ t < 16 by omega]

/-! ### Commands -/

/-- Every command answers a next state, and leaves the model's own fields alone. -/
theorem exec_next (i : Instr) (s : State) : ∃ t, exec i s = .next t ∧
    t.prog = s.prog ∧ t.reads = s.reads ∧ t.vars = s.vars ∧ t.checks = s.checks ∧ t.lags = s.lags ∧ t.slack = s.slack ∧ t.draws = s.draws := by
  cases i <;> simp only [exec, execNop, execRotr, execShr, execAdd, execCh, execMaj, execBsig0, execBsig1, execSsig0,
    execSsig1, execInit, execAbsorb, execFinal, execClrerr] <;> (repeat' split) <;> exact ⟨_, rfl, by simp⟩

/-- What a write to `CMD` can do: a rejection for an illegal word, or the decoded command. -/
theorem command_cases (v : Word) (s : State) :
    (∃ why, decode v = .illegal why ∧ command v s = .next (reject .illegalCmd s)) ∨
    (∃ i, decode v = .command i ∧ command v s = exec i s) := by
  unfold command
  cases h : decode v with
  | illegal why => exact .inl ⟨why, rfl, rfl⟩
  | command i => exact .inr ⟨i, rfl, rfl⟩

/-- Every write to `CMD` answers a next state. -/
theorem command_next (v : Word) (s : State) : ∃ t, command v s = .next t ∧
    t.prog = s.prog ∧ t.reads = s.reads ∧ t.vars = s.vars ∧ t.checks = s.checks ∧ t.lags = s.lags ∧ t.slack = s.slack ∧ t.draws = s.draws := by
  obtain ⟨_, -, e⟩ | ⟨i, -, e⟩ := command_cases v s
  · exact ⟨_, e, by simp⟩
  · rw [e]; exact exec_next i s

end Sys2Proof.Machine
end

