-- ==== Sys2Proof/Laws/PerInstr.lean ====
section
/-! SUPPORT. Families of statements about every command as syntax, one lemma a constructor. -/

namespace Sys2Proof.Laws

/-- The word a command encodes to carries its opcode and a zero `RSV`, and the operand fields it does not use are 0
(30_encoding.md R70, R73). -/
def EncodedFields.Statement (i : Instr) : Prop :=
  opcField (encode i) = i.opcode ∧ rsvField (encode i) = 0 ∧
  (usesImm i = false → immField (encode i) = 0) ∧ (usesN6 i = false → n6Field (encode i) = 0)

theorem EncodedFields.nop : EncodedFields.Statement .nop := by simp [EncodedFields.Statement, encode]
theorem EncodedFields.rotr (n : Nat) : EncodedFields.Statement (.rotr n) := by
  simp [EncodedFields.Statement, encode, usesN6]
theorem EncodedFields.shr (n : Nat) : EncodedFields.Statement (.shr n) := by
  simp [EncodedFields.Statement, encode, usesN6]
theorem EncodedFields.add (n : Nat) : EncodedFields.Statement (.add n) := by
  simp [EncodedFields.Statement, encode, usesN6]
theorem EncodedFields.ch : EncodedFields.Statement .ch := by simp [EncodedFields.Statement, encode]
theorem EncodedFields.maj : EncodedFields.Statement .maj := by simp [EncodedFields.Statement, encode]
theorem EncodedFields.bsig0 : EncodedFields.Statement .bsig0 := by simp [EncodedFields.Statement, encode]
theorem EncodedFields.bsig1 : EncodedFields.Statement .bsig1 := by simp [EncodedFields.Statement, encode]
theorem EncodedFields.ssig0 : EncodedFields.Statement .ssig0 := by simp [EncodedFields.Statement, encode]
theorem EncodedFields.ssig1 : EncodedFields.Statement .ssig1 := by simp [EncodedFields.Statement, encode]
theorem EncodedFields.init : EncodedFields.Statement .init := by simp [EncodedFields.Statement, encode]
theorem EncodedFields.absorb (b : Byte) : EncodedFields.Statement (.absorb b) := by
  simp [EncodedFields.Statement, encode, usesImm]
theorem EncodedFields.final : EncodedFields.Statement .final := by simp [EncodedFields.Statement, encode]
theorem EncodedFields.clrerr : EncodedFields.Statement .clrerr := by simp [EncodedFields.Statement, encode]

end Sys2Proof.Laws
end

