-- ==== Sys2Proof/Laws/Step.lean ====
section
/-! SUPPORT. What one step can do, said once: the register map, a host statement, and `step` itself. -/

namespace Sys2Proof.Machine

/-! ### The register map (20_memory.md R51) -/

theorem regOfSlot_offset : ∀ n : Fin 128, (regOfSlot n).offset = 4 * n.val := by decide

theorem Reg.offset_lt (r : Reg) : r.offset < 512 ∧ r.offset % 4 = 0 := by
  constructor <;> cases r <;> simp only [Reg.offset] <;> omega

theorem regOfSlot_of_offset (r : Reg) (h : r.offset / 4 < 128) : regOfSlot ⟨r.offset / 4, h⟩ = r := by
  cases r <;> first
    | rfl
    | (rename_i i; revert h; revert i; decide)

theorem Reg.offset_injective {r r' : Reg} (h : r.offset = r'.offset) : r = r' := by
  have hr := r.offset_lt
  have hr' := r'.offset_lt
  have e := regOfSlot_of_offset r (by omega)
  simp only [h] at e
  rw [← e, regOfSlot_of_offset r' (by omega)]

/-- An access reaches a register exactly when it is 4 bytes wide and at that register's offset. -/
theorem regAt_eq_ok {off width : Nat} {r : Reg} : regAt off width = .ok r ↔ width = 4 ∧ off = r.offset := by
  unfold regAt Config.busBytes
  by_cases hw : width = 4
  · by_cases ho : off < 512
    · by_cases hm : off % 4 = 0
      · rw [if_neg (by simp [hw]), dif_pos ho, if_neg (by simp [hm])]
        simp only [Except.ok.injEq, hw, true_and]
        constructor
        · rintro rfl
          rw [regOfSlot_offset]; simp only; omega
        · rintro rfl
          exact regOfSlot_of_offset r _
      · rw [if_neg (by simp [hw]), dif_pos ho, if_pos hm]
        simp only [reduceCtorEq, hw, true_and, false_iff]
        rintro rfl
        exact hm r.offset_lt.2
    · rw [if_neg (by simp [hw]), dif_neg ho]
      simp only [reduceCtorEq, hw, true_and, false_iff]
      rintro rfl
      exact ho r.offset_lt.1
  · rw [if_pos hw]
    simp [hw]

@[simp] theorem memRead_offset (r : Reg) (s : State) : memRead r.offset 4 s = .ok (readReg r s) := by
  simp [memRead, regAt_eq_ok.2 ⟨rfl, rfl⟩]

@[simp] theorem memWrite_offset (r : Reg) (v : Word) (s : State) : memWrite r.offset 4 v s = writeReg r v s := by
  simp [memWrite, regAt_eq_ok.2 ⟨rfl, rfl⟩]

theorem memWrite_cmd (v : Word) (s : State) : memWrite 0x004 4 v s = command v s := memWrite_offset .cmd v s

/-! ### A host statement -/

/-- What a register write can do (20_memory.md R55). -/
theorem writeReg_cases {r : Reg} {v : Word} {s t : State} (h : writeReg r v s = .next t) :
    (r = .cmd ∧ command v s = .next t) ∨ (r = .cfg ∧ t = { s with cfgUpper := v.getLsbD 0 }) ∨
    (∃ i : Fin 5, r = .op i ∧ t = { s with op := s.op.set i.val v }) ∨
    (r ≠ .cmd ∧ r ≠ .cfg ∧ (∀ i, r ≠ .op i) ∧ t = s) := by
  cases r <;> simp only [writeReg, Host.Outcome.next.injEq] at h <;> simp [← h]

/-- What a host statement can do to the state it works on. -/
theorem hostStep_cases {stmt : HostStmt} {s t : State} (h : hostStep stmt s = .next t) :
    (∃ x, stmt = wr .cmd x ∧ command (valueOf x s) s = .next t) ∨
    (∃ x, stmt = wr .cfg x ∧ t = { s with cfgUpper := (valueOf x s).getLsbD 0 }) ∨
    (∃ i x, stmt = wr (.op i) x ∧ t = { s with op := s.op.set i.val (valueOf x s) }) ∨
    (∃ r x, stmt = wr r x ∧ r ≠ .cmd ∧ r ≠ .cfg ∧ (∀ i, r ≠ .op i) ∧ t = s) ∨
    (∃ r use, stmt = .read r.offset Config.busBytes use ∧ t = keepRead use (readReg r s) s) ∨
    (∃ r mask value, stmt = .poll r.offset mask value ∧
      t = if readReg r s &&& valueOf mask s = valueOf value s then s else { s with prog := stmt :: s.prog }) ∨
    (stmt = .reset ∧ t = resetCore s) := by
  cases stmt with
  | write off width x =>
    simp only [hostStep, memWrite] at h
    split at h
    · cases h
    · rename_i r hr
      obtain ⟨rfl, rfl⟩ := regAt_eq_ok.1 hr
      obtain ⟨rfl, h⟩ | ⟨rfl, h'⟩ | ⟨i, rfl, h'⟩ | ⟨h1, h2, h3, h'⟩ := writeReg_cases h
      · exact .inl ⟨x, rfl, h⟩
      · exact .inr (.inl ⟨x, rfl, h'⟩)
      · exact .inr (.inr (.inl ⟨i, x, rfl, h'⟩))
      · exact .inr (.inr (.inr (.inl ⟨r, x, rfl, h1, h2, h3, h'⟩)))
  | read off width use =>
    simp only [hostStep, memRead] at h
    cases hr : regAt off width with
    | error e => simp [hr] at h
    | ok r =>
      obtain ⟨rfl, rfl⟩ := regAt_eq_ok.1 hr
      simp only [hr, Host.Outcome.next.injEq] at h
      exact .inr (.inr (.inr (.inr (.inl ⟨r, use, rfl, h.symm⟩))))
  | poll off mask value =>
    simp only [hostStep, memRead] at h
    cases hr : regAt off Config.busBytes with
    | error e => simp [hr] at h
    | ok r =>
      obtain ⟨-, rfl⟩ := regAt_eq_ok.1 hr
      simp only [hr] at h
      refine .inr (.inr (.inr (.inr (.inr (.inl ⟨r, mask, value, rfl, ?_⟩)))))
      split at h <;> simp_all
  | reset =>
    simp only [hostStep, Host.Outcome.next.injEq] at h
    exact .inr (.inr (.inr (.inr (.inr (.inr ⟨rfl, h.symm⟩)))))

/-! ### The step -/

theorem mapNext_eq_next {f : State → State} {o : Host.Outcome State Fault Refusal} {t : State}
    (h : mapNext f o = .next t) : ∃ t', o = .next t' ∧ t = f t' := by
  cases o <;> simp [mapNext] at h ⊢; exact h.symm

theorem step_engine {s : State} (h : engineTurn s = true) : step s = .next (engineMove s) := by simp [step, h]

theorem step_host {s : State} {stmt : HostStmt} {rest : List HostStmt} (h : HostNext stmt rest s) :
    step s = hostMove stmt rest s := by
  obtain ⟨hp, ht⟩ := h
  simp [step, ht, hp]

theorem step_idle {s : State} (ht : engineTurn s = false) (hp : s.prog = []) : step s = .next s := by
  simp [step, ht, hp]

/-- Everything a step that answers a next state can be: the engine's, a host statement's, or none. -/
theorem step_cases {s t : State} (h : step s = .next t) :
    (engineTurn s = true ∧ t = drawSlack (engineStep s)) ∨
    (∃ stmt rest t', HostNext stmt rest s ∧ hostStep stmt (takeStmt rest s) = .next t' ∧ t = armEngine s t') ∨
    (engineTurn s = false ∧ s.prog = [] ∧ t = s) := by
  cases ht : engineTurn s with
  | true =>
    rw [step_engine ht] at h
    injection h with h
    exact .inl ⟨rfl, h.symm⟩
  | false =>
    cases hp : s.prog with
    | nil =>
      rw [step_idle ht hp] at h
      injection h with h
      exact .inr (.inr ⟨rfl, rfl, h.symm⟩)
    | cons stmt rest =>
      rw [step_host ⟨hp, ht⟩] at h
      obtain ⟨t', h1, h2⟩ := mapNext_eq_next h
      exact .inr (.inl ⟨stmt, rest, t', ⟨hp, ht⟩, h1, h2⟩)

theorem engineTurn_busy {s : State} (h : engineTurn s = true) : s.status.busy = true := by
  simp [engineTurn] at h; exact h.1

theorem hostNext_of_idle {s : State} {stmt : HostStmt} {rest : List HostStmt} (hb : s.status.busy = false)
    (hp : s.prog = stmt :: rest) : HostNext stmt rest s := ⟨hp, by simp [engineTurn, hb]⟩

/-- Arming the engine changes only the interleaving fields. -/
theorem armEngine_sameCore (b s : State) : SameCore (armEngine b s) s := by constructor <;> simp

theorem drawSlack_sameCore (s : State) : SameCore (drawSlack s) s := by constructor <;> simp

theorem takeStmt_sameCore (rest : List HostStmt) (s : State) : SameCore (takeStmt rest s) s := by constructor <;> simp

/-- What the host does with a Word it has read is no state of the core. -/
theorem keepRead_sameCore (use : ReadUse) (x : Word) (s : State) : SameCore (keepRead use x s) s := by
  constructor <;> simp

/-- The engine's step: a round step or a feed-forward step (42_compressor.md R130). -/
theorem engineStep_cases (s : State) :
    (∃ t : Fin 64, s.status.round = t.castSucc ∧ engineStep s = roundStep t s) ∨
    (s.status.round = 64 ∧ engineStep s = feedForward s) := by
  by_cases h : s.status.round.val < 64
  · exact .inl ⟨⟨_, h⟩, rfl, by simp [engineStep, h]⟩
  · refine .inr ⟨?_, by simp [engineStep, h]⟩
    have := s.status.round.isLt
    apply Fin.ext; show s.status.round.val = 64; omega

/-- The engine's step never touches the host's fields. -/
theorem engineStep_frame (s : State) :
    (engineStep s).op = s.op ∧ (engineStep s).result = s.result ∧ (engineStep s).len = s.len ∧
    (engineStep s).cfgUpper = s.cfgUpper ∧ (engineStep s).prog = s.prog ∧ (engineStep s).reads = s.reads ∧
    (engineStep s).lags = s.lags ∧ (engineStep s).slack = s.slack ∧ (engineStep s).draws = s.draws := by
  obtain ⟨t, -, e⟩ | ⟨-, e⟩ := engineStep_cases s <;> simp [e]

/-! ### What a step does to the core -/

/-- What a command can do, and when (30_encoding.md R74): a rejection, or the effect of its rule. -/
theorem exec_cases {i : Instr} {s t : State} (h : exec i s = .next t) :
    (∃ c, (c = .shiftRange ∨ c = .addCount ∨ c = .busy ∨ c = .sequence) ∧ t = reject c s) ∨
    ((∃ b, i = .absorb b) ∧ s.status.busy = false ∧ s.status.msgOpen = true ∧ 2 ^ 64 - 1 < s.len.toNat + 8 ∧
      t = reject .inputTooLarge s) ∨
    (isWordOp i = true ∧ ∃ x, t = setResult x s) ∨ (i = .nop ∧ t = s) ∨ (i = .clrerr ∧ t = clearError s) ∨
    (i = .init ∧ s.status.busy = false ∧ t = openMessage s) ∨
    (∃ b, i = .absorb b ∧ s.status.busy = false ∧ s.status.msgOpen = true ∧ s.len.toNat + 8 ≤ 2 ^ 64 - 1 ∧
      t = absorbByte b s) ∨
    (i = .final ∧ s.status.busy = false ∧ s.status.msgOpen = true ∧ t = finaliseMessage s) := by
  cases i <;> simp only [exec, execNop, execRotr, execShr, execAdd, execCh, execMaj, execBsig0, execBsig1, execSsig0,
    execSsig1, execInit, execAbsorb, execFinal, execClrerr] at h <;> (repeat' split at h) <;>
    injection h with h <;> subst h
  case nop => exact .inr (.inr (.inr (.inl ⟨rfl, rfl⟩)))
  case clrerr => exact .inr (.inr (.inr (.inr (.inl ⟨rfl, rfl⟩))))
  case init.isTrue => exact .inl ⟨_, .inr (.inr (.inl rfl)), rfl⟩
  case init.isFalse hb =>
    exact .inr (.inr (.inr (.inr (.inr (.inl ⟨rfl, by simpa using hb, rfl⟩)))))
  case absorb.isTrue => exact .inl ⟨_, .inr (.inr (.inl rfl)), rfl⟩
  case absorb.isFalse.isTrue => exact .inl ⟨_, .inr (.inr (.inr rfl)), rfl⟩
  case absorb.isFalse.isFalse.isTrue b hb hm hl =>
    exact .inr (.inl ⟨⟨b, rfl⟩, by simpa using hb, by simpa using hm, hl, rfl⟩)
  case absorb.isFalse.isFalse.isFalse b hb hm hl =>
    exact .inr (.inr (.inr (.inr (.inr (.inr (.inl
      ⟨b, rfl, by simpa using hb, by simpa using hm, by omega, rfl⟩))))))
  case final.isTrue => exact .inl ⟨_, .inr (.inr (.inl rfl)), rfl⟩
  case final.isFalse.isTrue => exact .inl ⟨_, .inr (.inr (.inr rfl)), rfl⟩
  case final.isFalse.isFalse hb hm =>
    exact .inr (.inr (.inr (.inr (.inr (.inr (.inr ⟨rfl, by simpa using hb, by simpa using hm, rfl⟩))))))
  case rotr.isFalse => exact .inl ⟨_, .inl rfl, rfl⟩
  case shr.isFalse => exact .inl ⟨_, .inl rfl, rfl⟩
  case add.isFalse => exact .inl ⟨_, .inr (.inl rfl), rfl⟩
  all_goals exact .inr (.inr (.inl ⟨rfl, _, rfl⟩))

/-- A command does not look at the host's program or at the number of host steps allowed. -/
theorem exec_setHost (i : Instr) (p : List HostStmt) (n : Nat) (s : State) :
    exec i { s with prog := p, slack := n } = mapNext (fun t => { t with prog := p, slack := n }) (exec i s) := by
  cases i <;> simp only [exec, execNop, execRotr, execShr, execAdd, execCh, execMaj, execBsig0, execBsig1, execSsig0,
    execSsig1, execInit, execAbsorb, execFinal, execClrerr] <;> (repeat' split) <;>
    simp [mapNext, setResult, operandX, operandY, operandZ, addOperands, reject, openMessage, absorbByte,
      finaliseMessage, start, clearError]
  split <;> simp

theorem SameCore.trans {s t u : State} (h : SameCore s t) (h' : SameCore t u) : SameCore s u := by
  obtain ⟨a1, a2, a3, a4, a5, a6, a7, a8, a9⟩ := h
  obtain ⟨b1, b2, b3, b4, b5, b6, b7, b8, b9⟩ := h'
  exact ⟨a1.trans b1, a2.trans b2, a3.trans b3, a4.trans b4, a5.trans b5, a6.trans b6, a7.trans b7, a8.trans b8,
    a9.trans b9⟩

/-- WHAT ONE STEP DOES TO THE CORE, said once: an engine step, the reset event, a rejected illegal word, a command, a
write to `CFG` or `OP`, or nothing. -/
theorem step_core_cases {s t : State} (h : step s = .next t) :
    (engineTurn s = true ∧ SameCore t (engineStep s)) ∨
    (HostResets s ∧ SameCore t State.reset) ∨
    (∃ v why, HostWritesCmd v s ∧ decode v = .illegal why ∧ SameCore t (reject .illegalCmd s)) ∨
    (∃ v i u, HostWritesCmd v s ∧ decode v = .command i ∧ exec i s = .next u ∧ SameCore t u) ∨
    (∃ v, HostWrites .cfg v s ∧ SameCore t { s with cfgUpper := v.getLsbD 0 }) ∨
    (∃ (i : Fin 5) (v : Word), HostWrites (.op i) v s ∧ SameCore t { s with op := s.op.set i.val v }) ∨
    SameCore t s := by
  obtain ⟨ht, rfl⟩ | ⟨stmt, rest, t', hn, hs, rfl⟩ | ⟨-, -, rfl⟩ := step_cases h
  · exact .inl ⟨ht, drawSlack_sameCore _⟩
  · have ha := armEngine_sameCore s t'
    obtain ⟨x, rfl, hc⟩ | ⟨x, rfl, rfl⟩ | ⟨i, x, rfl, rfl⟩ | ⟨r, x, rfl, -, -, -, rfl⟩ | ⟨r, use, rfl, rfl⟩ |
      ⟨r, m, v, rfl, rfl⟩ | ⟨rfl, rfl⟩ := hostStep_cases hs
    · rw [valueOf_takeStmt] at hc
      obtain ⟨why, hd, e⟩ | ⟨i, hd, e⟩ := command_cases (valueOf x s) (takeStmt rest s)
      · rw [e] at hc; injection hc with hc; subst hc
        refine .inr (.inr (.inl ⟨_, why, ⟨x, rest, hn, rfl⟩, hd, ha.trans ?_⟩))
        constructor <;> simp [reject_status]
      · rw [e, takeStmt, exec_setHost] at hc
        obtain ⟨u, hu, rfl⟩ := mapNext_eq_next hc
        exact .inr (.inr (.inr (.inl ⟨_, i, u, ⟨x, rest, hn, rfl⟩, hd, hu, ha.trans (by constructor <;> rfl)⟩)))
    · exact .inr (.inr (.inr (.inr (.inl ⟨_, ⟨x, rest, hn, rfl⟩, ha.trans (by constructor <;> simp)⟩))))
    · exact .inr (.inr (.inr (.inr (.inr (.inl ⟨i, _, ⟨x, rest, hn, rfl⟩, ha.trans (by constructor <;> simp)⟩)))))
    · exact .inr (.inr (.inr (.inr (.inr (.inr (ha.trans (takeStmt_sameCore rest s)))))))
    · exact .inr (.inr (.inr (.inr (.inr (.inr (ha.trans (by constructor <;> simp)))))))
    · refine .inr (.inr (.inr (.inr (.inr (.inr (ha.trans ?_))))))
      split <;> constructor <;> simp
    · exact .inr (.inl ⟨⟨rest, hn⟩, ha.trans (by constructor <;> simp)⟩)
  · exact .inr (.inr (.inr (.inr (.inr (.inr ⟨rfl, rfl, rfl, rfl, rfl, rfl, rfl, rfl, rfl⟩)))))

end Sys2Proof.Machine
end

