-- ==== Sys2Proof/Laws/Words.lean ====
section
/-! SUPPORT. The word functions of 40_word_ops.md: `addMod` as 32-bit addition, and the bits of `rotr` and `shr`. -/

namespace Sys2Proof.Machine

@[simp] theorem addMod_nil : addMod [] = 0 := rfl

theorem addMod_cons (x : Word) (xs : List Word) : addMod (x :: xs) = x + addMod xs := by
  apply BitVec.eq_of_toNat_eq
  simp [addMod, BitVec.toNat_add, Nat.add_mod]

theorem addMod_pair (x y : Word) : addMod [x, y] = x + y := by
  simp [addMod_cons]

/-- R91: bit `i` of `rotr(x, n)` is bit `(i + n) mod 32` of `x`. -/
theorem getLsbD_rotr (x : Word) (n i : Nat) (hn : n < 32) (hi : i < 32) :
    (rotr x n).getLsbD i = x.getLsbD ((i + n) % 32) := by
  simp only [rotr, BitVec.getLsbD_or, BitVec.getLsbD_ushiftRight, BitVec.getLsbD_shiftLeft]
  by_cases h : i + n < 32
  · simp [Nat.mod_eq_of_lt h, Nat.add_comm n i, hi, show i < 32 - n by omega]
  · have e : (i + n) % 32 = i - (32 - n) := by omega
    simp [e, hi, show ¬ i < 32 - n by omega, BitVec.getLsbD_of_ge x (n + i) (by omega)]

/-- R92. -/
theorem getLsbD_shr (x : Word) (n i : Nat) : (shr x n).getLsbD i = x.getLsbD (n + i) := by
  simp [shr]

@[simp] theorem hexText_length (h : Hash) (u : Bool) : (hexText h u).length = 64 := by simp [hexText]

end Sys2Proof.Machine
end

