-- ==== Sys2Proof/Tests/Slice0.lean ====
section
/-! SUPPORT. Tests: well-formedness, words written out from the encodings, single steps against 95_test_vectors.md, and a
witness for the hypotheses of every obligation that has any. -/

namespace Sys2Proof.Tests

open Sys2Proof Sys2Proof.Machine

set_option maxRecDepth 20000

/-! ### Helpers -/

/-- The state of an outcome; the reset state where there is none. -/
def after (o : Host.Outcome State Fault Refusal) : State :=
  match o with
  | .next s => s
  | .fault _ => State.reset
  | .refused _ => State.reset

/-- One step with the word `w` written to `CMD`. -/
def run1 (w : Nat) (s : State) : State := after (step (s.withFetchWord 32 w))

/-- The reset state with these operands. -/
def withOps (a b c d e : Word) : State := { State.reset with op := #v[a, b, c, d, e] }

/-- The reset state with this host program. -/
def hosting (p : List HostStmt) : State := { State.reset with prog := p }

/-- A state with an open message of `n` bits. -/
def openAt (n : Nat) : State :=
  { State.reset with len := BitVec.ofNat 64 n, status := { Status.reset with msgOpen := true } }

/-- A state in which the engine works, after `r` rounds. -/
def busyAt (r : Fin 65) (pend2 finalPend : Bool) : State :=
  { State.reset with status := { Status.reset with busy := true, round := r, pend2 := pend2, finalPend := finalPend } }

/-- A state after a message. -/
def finished : State := { State.reset with status := { Status.reset with done := true, round := 64 } }

/-- A state with an error recorded. -/
def recorded (c : ErrCode) : State :=
  { State.reset with status := { Status.reset with err := true, multi := true, errCode := c } }

/-! ### Well-formedness and encoding -/

theorem test_wf_refuses_rotr_64 : (Instr.rotr 64).wellFormed = false := by decide
theorem test_wf_refuses_shr_64 : (Instr.shr 64).wellFormed = false := by decide
theorem test_wf_refuses_add_64 : (Instr.add 64).wellFormed = false := by decide
theorem test_wf_accepts_rotr_40 : (Instr.rotr 40).wellFormed = true := by decide

/-- From the `match` column of 30_encoding.md R73, bit by bit: RSV, N6, IMM8, OPC. -/
theorem test_decode_nop : decode 0b0000000000_000000_00000000_00000000 = .command .nop := by decide
theorem test_decode_rotr : decode 0b0000000000_000100_00000000_00000001 = .command (.rotr 4) := by decide
theorem test_decode_shr : decode 0b0000000000_011111_00000000_00000010 = .command (.shr 31) := by decide
theorem test_decode_add : decode 0b0000000000_000101_00000000_00000011 = .command (.add 5) := by decide
theorem test_decode_ch : decode 0b0000000000_000000_00000000_00000100 = .command .ch := by decide
theorem test_decode_maj : decode 0b0000000000_000000_00000000_00000101 = .command .maj := by decide
theorem test_decode_bsig0 : decode 0b0000000000_000000_00000000_00000110 = .command .bsig0 := by decide
theorem test_decode_bsig1 : decode 0b0000000000_000000_00000000_00000111 = .command .bsig1 := by decide
theorem test_decode_ssig0 : decode 0b0000000000_000000_00000000_00001000 = .command .ssig0 := by decide
theorem test_decode_ssig1 : decode 0b0000000000_000000_00000000_00001001 = .command .ssig1 := by decide
theorem test_decode_init : decode 0b0000000000_000000_00000000_00010000 = .command .init := by decide
theorem test_decode_absorb : decode 0b0000000000_000000_01100001_00010001 = .command (.absorb 0x61) := by decide
theorem test_decode_final : decode 0b0000000000_000000_00000000_00010010 = .command .final := by decide
theorem test_decode_clrerr : decode 0b0000000000_000000_00000000_00100000 = .command .clrerr := by decide
theorem test_decode_unassigned : decode 0x0000000A = .illegal .unassignedOpcode := by decide
theorem test_decode_reserved_bit : decode 0x00440001 = .illegal .nonzeroField := by decide
theorem test_decodeTableWord : decodeTableWord 32 0x00006111 = some (.absorb 0x61) := by decide

/-! ### Single steps, from 95_test_vectors.md section L2 -/

theorem test_nop : run1 0x00000000 (openAt 8) = openAt 8 := by decide
theorem test_rotr : (run1 0x00040001 (withOps 0x12345678 0 0 0 0)).result = 0x81234567 := by decide
theorem test_rotr_32 : statusWord (run1 0x00200001 (withOps 0x12345678 0 0 0 0)).status = 0x00000220 := by decide
theorem test_shr : (run1 0x001F0002 (withOps 0xFFFFFFFF 0 0 0 0)).result = 0x00000001 := by decide
theorem test_shr_32 : statusWord (run1 0x00200002 (withOps 0x12345678 0 0 0 0)).status = 0x00000220 := by decide
theorem test_add_5 : (run1 0x00050003 (withOps 0x6A09E667 0xBB67AE85 0x3C6EF372 0xA54FF53A 0x510E527F)).result =
    0x583ED017 := by decide
theorem test_add_6 : statusWord (run1 0x00060003 State.reset).status = 0x00000320 := by decide
theorem test_ch : (run1 0x00000004 (withOps 0x510E527F 0x9B05688C 0x1F83D9AB 0 0)).result = 0x1F85C98C := by decide
theorem test_maj : (run1 0x00000005 (withOps 0x6A09E667 0xBB67AE85 0x3C6EF372 0 0)).result = 0x3A6FE667 := by decide
theorem test_bsig0 : (run1 0x00000006 (withOps 0x6A09E667 0 0 0 0)).result = 0xCE20B47E := by decide
theorem test_bsig1 : (run1 0x00000007 (withOps 0x510E527F 0 0 0 0)).result = 0x3587272B := by decide
theorem test_ssig0 : (run1 0x00000008 (withOps 0x80000000 0 0 0 0)).result = 0x11002000 := by decide
theorem test_ssig1 : (run1 0x00000009 (withOps 0x12345678 0 0 0 0)).result = 0xA1F78649 := by decide
theorem test_init : statusWord (run1 0x00000010 State.reset).status = 0x00000004 := by decide
theorem test_init_busy : statusWord (run1 0x00000010 (busyAt 3 false true)).status = 0x00030431 := by decide

/-- L2.3, `INPUT_TOO_LARGE`: the byte that still fits, and the one that does not. -/
theorem test_absorb_last : (run1 0x00004111 (openAt 0xFFFFFFFFFFFFFFF0)).m[15] = 0x00004100 ∧
    (run1 0x00004111 (openAt 0xFFFFFFFFFFFFFFF0)).len = 0xFFFFFFFFFFFFFFF8 := by decide
theorem test_absorb_too_large :
    statusWord (run1 0x00004211 (openAt 0xFFFFFFFFFFFFFFF8)).status = 0x00000620 := by decide

/-- L2.3, rows P-a and P-f at `r = 0`, and the flags of row P-d. -/
theorem test_final : (run1 0x00000012 (openAt 0x200)).m = #v[0x80000000, 0, 0, 0, 0, 0, 0, 0, 0, 0, 0, 0, 0, 0, 0, 0x200] ∧
    statusWord (run1 0x00000012 (openAt 0x200)).status = 0x00000011 := by decide
theorem test_final_two_blocks : statusWord (run1 0x00000012 (openAt 0x1C0)).status = 0x00000019 := by decide

/-- L2.1, rows W36 and W35: code 1. -/
theorem test_illegal_opcode : statusWord (run1 0x0000000A State.reset).status = 0x00000120 := by decide
theorem test_illegal_field : statusWord (run1 0x00000104 State.reset).status = 0x00000120 := by decide

/-- P3: the first code stays, `MULTI` is set; `CLRERR` clears both. -/
theorem test_multi : statusWord (run1 0x00200001 (run1 0x00007811 State.reset)).status = 0x00000560 := by decide
theorem test_clrerr : statusWord (run1 0x00000020 (recorded .sequence)).status = 0 := by decide

/-- L2.4: round 0 of the message "abc". -/
theorem test_round_0 :
    (engineStep (start { State.reset with m := #v[0x61626380, 0, 0, 0, 0, 0, 0, 0, 0, 0, 0, 0, 0, 0, 0, 0x18] })).wv =
      #v[0x5D6AEBCD, 0x6A09E667, 0xBB67AE85, 0x3C6EF372, 0xFA2A4622, 0x510E527F, 0x9B05688C, 0x1F83D9AB] := by decide

/-- L2.4: the schedule words `W[16]` and `W[17]` of the message "abc". -/
theorem test_schedule :
    let s := start { State.reset with m := #v[0x61626380, 0, 0, 0, 0, 0, 0, 0, 0, 0, 0, 0, 0, 0, 0, 0x18] }
    scheduleWord s.w 16 = 0x61626380 ∧ scheduleWord s.w 17 = 0x000F0000 := by decide

/-- L2.6: `HEX0` after reset and of the digest of "abc" in both cases. -/
theorem test_hex : readReg (.hex 0) State.reset = 0x36613039 ∧
    hexWord #v[0xBA7816BF, 0, 0, 0, 0, 0, 0, 0xF20015AD] true 0 = 0x42413738 ∧
    hexWord #v[0xBA7816BF, 0, 0, 0, 0, 0, 0, 0xF20015AD] false 15 = 0x31356164 := by decide

/-- L2.7. -/
theorem test_window : memRead 0x000 4 State.reset = .ok 0x53323536 ∧ memRead 0x100 4 State.reset = .ok 0x428A2F98 ∧
    memRead 0x1FC 4 State.reset = .ok 0xC67178F2 ∧ memRead 0x09C 4 State.reset = .ok 0x5BE0CD19 ∧
    memWrite 0x080 4 0 State.reset = .next State.reset := by
  (repeat' apply And.intro) <;> rfl

/-- P2: the first `rd RESULT -> s1e` and `SETOPS` with a bound name, one step each. -/
theorem test_rd_binds : valueOf (.name 1)
    (after (step { hosting [rdBind .result 1] with result := 0x3587272B })) = 0x3587272B := by decide
theorem test_wr_of_a_name : (after (step { hosting [wr (.op 1) (.name 1)] with vars := [(2, 7), (1, 0x3587272B), (1, 5)] })).op =
    #v[0, 0x3587272B, 0, 0, 0] := by decide

/-- P3: `rd RESULT == 0x00000000`, and a check that does not hold. -/
theorem test_rd_checks : (after (step (hosting [rdCheck .result (.lit 0)]))).checks = [true] ∧
    (after (step (hosting [rdCheck .result (.lit 1), waitStmt]))).checks = [false] ∧
    (after (step (hosting [rdCheck .result (.lit 1), waitStmt]))).prog = [waitStmt] := by decide

/-! ### Witnesses -/

theorem test_witness_DecodeOfEncodeIsTheCommand :
    ∀ i ∈ [Instr.nop, .rotr 63, .shr 63, .add 63, .ch, .maj, .bsig0, .bsig1, .ssig0, .ssig1, .init, .absorb 0xFF, .final,
      .clrerr], i.wellFormed = true := by decide

theorem test_witness_EncodeOfDecodeIsTheWord : decode 0x003F0001 = .command (.rotr 63) := by decide

theorem test_witness_IllegalWordsAreRejected : illegalWord 0x000000FF ∧ illegalWord 0x00400000 ∧
    State.reset.status.err = false ∧ command 0x0000000A State.reset = .next (reject .illegalCmd State.reset) ∧
    (reject .illegalCmd State.reset).status.errCode = .illegalCmd ∧ State.reset.status.errCode ≠ .illegalCmd := by
  unfold illegalWord nonzeroField
  (repeat' apply And.intro) <;> first | rfl | decide

/-- One word, and one state, for every clause, at the ends of its range. -/
theorem test_witness_ChecksRunInOrder :
    opcodeOf 0x00000013 ∉ assignedOpcodes ∧ opcodeOf 0xFFC00000 ∈ assignedOpcodes ∧ nonzeroField 0xFFC00000 ∧
    (opcodeOf 0x00200001 = 0x01 ∧ ¬ nonzeroField 0x00200001 ∧ 32 ≤ amountOf 0x00200001) ∧
    (opcodeOf 0x003F0002 = 0x02 ∧ ¬ nonzeroField 0x003F0002 ∧ 32 ≤ amountOf 0x003F0002) ∧
    (opcodeOf 0x00010003 = 0x03 ∧ ¬ nonzeroField 0x00010003 ∧ amountOf 0x00010003 ∉ [2, 3, 4, 5]) ∧
    (opcodeOf 0x00060003 = 0x03 ∧ ¬ nonzeroField 0x00060003 ∧ amountOf 0x00060003 ∉ [2, 3, 4, 5]) ∧
    (opcodeOf 0x00000012 = 0x12 ∧ ¬ nonzeroField 0x00000012 ∧ (busyAt 0 false false).status.busy = true) ∧
    (opcodeOf 0x0000FF11 = 0x11 ∧ ¬ nonzeroField 0x0000FF11 ∧ State.reset.status.busy = false ∧
      State.reset.status.msgOpen = false) ∧
    ((openAt 0xFFFFFFFFFFFFFFF8).status.busy = false ∧ (openAt 0xFFFFFFFFFFFFFFF8).status.msgOpen = true ∧
      2 ^ 64 - 1 < (openAt 0xFFFFFFFFFFFFFFF8).len.toNat + 8) ∧
    (¬ nonzeroField 0x00050003 ∧ opcodeOf 0x00050003 ∈ assignedOpcodes) := by
  unfold nonzeroField
  (repeat' apply And.intro) <;> decide

theorem test_witness_RejectionRecordsTheFirstCode : State.reset.status.err = false ∧
    (recorded .busy).status.err = true ∧ ErrCode.busy ≠ .inputTooLarge := by decide

/-- A command, `CLRERR` and the reset event change the record; a second error keeps the code. -/
theorem test_witness_ErrorRecordChangesOnlyByCommands :
    step (hosting [wr .cmd (.lit 0x0000000A)]) = .next (reject .illegalCmd State.reset) ∧
    step { recorded .busy with prog := [wr .cmd (.lit 0x00000020)] } = .next State.reset ∧
    step { recorded .busy with prog := [.reset] } = .next State.reset ∧
    step { recorded .busy with prog := [wr .cmd (.lit 0x0000000A)] } = .next (recorded .busy) := by
  (repeat' apply And.intro) <;> rfl

theorem test_witness_OnlyForeignAccessesStop : step (hosting [.write 0x004 2 (.lit 0)]) = .refused .accessWidth ∧
    step (hosting [.read 0x002 4 .keep]) = .refused .misaligned ∧
    step (hosting [.poll 0x200 (.lit 1) (.lit 0)]) = .refused .outsideWindow := by
  (repeat' apply And.intro) <;> rfl

theorem test_witness_RotrRotatesRight : 31 < 32 ∧ 0 < 31 ∧ 0 < 32 := by decide

theorem test_witness_ShrShiftsInZeros : 31 < 32 ∧ 32 - 31 ≤ 31 := by decide

theorem test_witness_ChSelectsAndMajVotes : 0 < 32 ∧ 31 < 32 := by decide

theorem test_witness_SigmaBits : 0 < 32 ∧ 31 < 32 := by decide

theorem test_witness_AddModSumsModulo : [1#32, 2, 3].Perm [3, 1, 2] := by decide

theorem test_witness_RotrCommand : 0 < 32 ∧ 31 < 32 ∧ 32 ≤ 32 ∧ opcodeOf 0x00000101 = 0x01 ∧ immOf 0x00000101 ≠ 0 ∧
    opcodeOf 0x80000001 = 0x01 ∧ reservedOf 0x80000001 ≠ 0 ∧
    (opcodeOf 0x003F0001 = 0x01 ∧ immOf 0x003F0001 = 0 ∧ reservedOf 0x003F0001 = 0) ∧
    (withOps 0x12345678 0 0 0 0).op[0] = 0x12345678 := by decide

theorem test_witness_ShrCommand : 0 < 32 ∧ 31 < 32 ∧ 32 ≤ 32 ∧ opcodeOf 0x0000FF02 = 0x02 ∧ immOf 0x0000FF02 ≠ 0 ∧
    opcodeOf 0x00400002 = 0x02 ∧ reservedOf 0x00400002 ≠ 0 ∧
    (opcodeOf 0x003F0002 = 0x02 ∧ immOf 0x003F0002 = 0 ∧ reservedOf 0x003F0002 = 0) ∧
    (withOps 0x80000000 0 0 0 0).op[0] = 0x80000000 := by decide

theorem test_witness_AddCommand : 1 ∉ [2, 3, 4, 5] ∧ 6 ∉ [2, 3, 4, 5] ∧ opcodeOf 0x00000103 = 0x03 ∧
    immOf 0x00000103 ≠ 0 ∧ opcodeOf 0x00400003 = 0x03 ∧ reservedOf 0x00400003 ≠ 0 ∧
    (opcodeOf 0x00050003 = 0x03 ∧ immOf 0x00050003 = 0 ∧ reservedOf 0x00050003 = 0) ∧
    (let s := withOps 0xFFFFFFFF 0xFFFFFFFF 0xFFFFFFFF 0xFFFFFFFF 0xFFFFFFFF
      ∀ i : Fin 5, s.op[i] = 0xFFFFFFFF) ∧
    (withOps 0xFFFFFFFF 1 0 0 0).op[0] = 0xFFFFFFFF ∧ (withOps 0xFFFFFFFF 1 0 0 0).op[1] = 1 ∧
    (withOps 0x12345678 0x9ABCDEF0 0 0 0).op[0] = 0x12345678 ∧
    (withOps 0x12345678 0x9ABCDEF0 0 0 0).op[1] = 0x9ABCDEF0 := by decide

theorem test_witness_ChAndMajCommands : opcodeOf 0x00000004 = 0x04 ∧ opcodeOf 0x00000104 = 0x04 ∧
    0x00000104 ≠ 0x00000004#32 ∧ opcodeOf 0x00000005 = 0x05 ∧ opcodeOf 0x00010005 = 0x05 ∧
    0x00010005 ≠ 0x00000005#32 := by decide

theorem test_witness_SigmaCommands :
    (opcodeOf 0x00000006 = 0x06 ∧ (0x00000006#32).toNat = opcodeOf 0x00000006) ∧
    (opcodeOf 0x00000009 = 0x09 ∧ (0x00000009#32).toNat = opcodeOf 0x00000009) ∧
    opcodeOf 0x00000109 = 0x09 ∧ (0x00000109#32).toNat ≠ opcodeOf 0x00000109 := by decide

theorem test_witness_WordOpsTouchOnlyResultOrRecord :
    (∀ i ∈ [Instr.rotr 31, .rotr 32, .shr 0, .add 5, .add 6, .ch, .maj, .bsig0, .bsig1, .ssig0, .ssig1],
      isWordOp i = true) ∧
    State.reset.op = (busyAt 64 true true).op ∧ exec .ch State.reset = .next State.reset ∧
    Reg.id ≠ .result ∧ Reg.id ≠ .status := by
  (repeat' apply And.intro) <;> first | rfl | decide

theorem test_witness_BusyCommandsCommuteWithEngine :
    isWordOp (.rotr 63) = true ∧ exec (.rotr 1) (busyAt 16 false true) = .next (busyAt 16 false true) ∧
    exec .clrerr (busyAt 64 true true) = .next (busyAt 64 true true) := by
  (repeat' apply And.intro) <;> rfl

theorem test_witness_SystemCommands : opcodeOf 0 = 0x00 ∧ opcodeOf 0x00000100 = 0x00 ∧ 0x00000100 ≠ 0#32 ∧
    opcodeOf 0x00000020 = 0x20 ∧ opcodeOf 0x00010020 = 0x20 ∧ 0x00010020 ≠ 0x00000020#32 ∧
    statusWord (recorded .sequence).status = 0x00000560 ∧ exec .clrerr (recorded .sequence) = .next State.reset := by
  (repeat' apply And.intro) <;> first | rfl | decide

theorem test_witness_CommandsLeaveTheHostAlone :
    exec .clrerr { recorded .busy with prog := [waitStmt] } = .next (hosting [waitStmt]) := rfl

theorem test_witness_BytesOfTheBlock : (0 : Fin 64) ≠ 63 ∧
    ∀ j : Fin 64, getByte State.reset.m j = getByte (openAt 8).m j := by decide

theorem test_witness_InitOpensAMessage : finished.status.busy = false ∧ (busyAt 0 false false).status.busy = true ∧
    opcodeOf 0x00000010 = 0x10 ∧ opcodeOf 0x00000110 = 0x10 ∧ 0x00000110 ≠ 0x00000010#32 ∧
    exec .init State.reset = .next (openAt 0) := by
  (repeat' apply And.intro) <;> first | rfl | decide

theorem test_witness_AbsorbAppendsAByte :
    (∀ n ∈ [0, 496, 504, 0xFFFFFFFFFFFFFFF0], (openAt n).status.busy = false ∧ (openAt n).status.msgOpen = true ∧
      (openAt n).len.toNat + 8 ≤ 2 ^ 64 - 1) ∧
    (62 : Fin 64).val = (openAt 496).len.toNat / 8 % 64 ∧ (63 : Fin 64).val = (openAt 504).len.toNat / 8 % 64 ∧
    (busyAt 64 false true).status.busy = true ∧ finished.status.busy = false ∧ finished.status.msgOpen = false ∧
    opcodeOf 0x00010011 = 0x11 ∧ amountOf 0x00010011 ≠ 0 ∧ opcodeOf 0x00400011 = 0x11 ∧ reservedOf 0x00400011 ≠ 0 ∧
    opcodeOf 0x0000FF11 = 0x11 ∧ amountOf 0x0000FF11 = 0 ∧ reservedOf 0x0000FF11 = 0 := by decide

theorem test_witness_AbsorbAppendsAByte_example : finished.status.busy = false ∧
    command 0x00000010 State.reset = .next (openAt 0) ∧
    command 0x00006111 (openAt 0) = .next { openAt 8 with m := State.reset.m.set 0 0x61000000 } := by
  (repeat' apply And.intro) <;> rfl

theorem test_witness_TooLongMessageIsClosed :
    let s := openAt 0xFFFFFFFFFFFFFFF8
    s.status.busy = false ∧ s.status.msgOpen = true ∧ 2 ^ 64 - 1 < s.len.toNat + 8 ∧ s.len.toNat % 8 = 0 ∧
      s.status.err = false ∧ { s with status := { s.status with err := true } }.status.err = true ∧
      { s with status := { s.status with err := true } }.status.msgOpen = true ∧
      State.reset.status.busy = false ∧
      State.reset.status.msgOpen = (reject .inputTooLarge s).status.msgOpen := by decide

/-- The positions 0, 55, 56 and 63. -/
theorem test_witness_FinalPadsAndStarts :
    (∀ n ∈ [0, 440, 448, 504], (openAt n).status.busy = false ∧ (openAt n).status.msgOpen = true) ∧
    0 = (openAt 512).len.toNat / 8 % 64 ∧ 55 = (openAt 440).len.toNat / 8 % 64 ∧ 56 = (openAt 448).len.toNat / 8 % 64 ∧
    (busyAt 0 true true).status.busy = true ∧ finished.status.busy = false ∧ finished.status.msgOpen = false ∧
    opcodeOf 0x00000012 = 0x12 ∧ opcodeOf 0x00400012 = 0x12 ∧ 0x00400012 ≠ 0x00000012#32 := by decide

theorem test_witness_PaddingShape : ([] : List Byte).length < 2 ^ 61 ∧
    ([0x61, 0x62, 0x63] : List Byte).length < 4 ∧ 4 < (padBytes [0x61, 0x62, 0x63]).length - 8 := by decide

theorem test_witness_StartCopiesBlockAndState : 15 < 16 ∧ 16 ≤ 63 ∧ 63 < 64 := by decide

theorem test_witness_RoundStepAdvancesTheBlock :
    (busyAt 0 false true).status.round = (0 : Fin 64).castSucc ∧
    (busyAt 15 false true).status.round = (15 : Fin 64).castSucc ∧
    (busyAt 16 false true).status.round = (16 : Fin 64).castSucc ∧
    (busyAt 63 false true).status.round = (63 : Fin 64).castSucc := by decide

theorem test_witness_FeedForwardAddsAndContinues :
    ((busyAt 64 true true).status.round = 64 ∧ (busyAt 64 true true).status.pend2 = true) ∧
    ((busyAt 64 false true).status.pend2 = false ∧ (busyAt 64 false true).status.finalPend = true) ∧
    ((busyAt 64 false false).status.pend2 = false ∧ (busyAt 64 false false).status.finalPend = false) := by decide

theorem test_witness_SixtyFiveStepsCompressTheBlock : 0 < Config.engineStepsPerBlock ∧ 64 < Config.engineStepsPerBlock := by
  decide

theorem test_witness_BlockTakesSixtyFiveSteps : (busyAt 0 true true).prog = [] ∧
    130 = (if (busyAt 0 true true).status.pend2 then 130 else 65) ∧
    65 = (if (busyAt 0 false true).status.pend2 then 130 else 65) ∧ (busyAt 0 false true).status.finalPend = true := by
  decide

theorem test_witness_WaitEnds : { busyAt 0 true true with prog := [waitStmt] }.prog = waitStmt :: [] ∧
    (hosting [waitStmt, rd .status]).prog = waitStmt :: [rd .status] := by decide

theorem test_witness_HashProgramComputesTheDigest : ([0x61, 0x62, 0x63] : List Byte).length < 2 ^ 61 ∧
    (hosting (hashProg [0x61, 0x62, 0x63])).prog = hashProg [0x61, 0x62, 0x63] ++ [] ∧
    { busyAt 7 false false with prog := hashProg [] }.prog = hashProg [] ++ [] := by decide

theorem test_witness_HexRegistersSpellTheState : (9#4).toNat ≤ 9 ∧ 10 ≤ (10#4).toNat ∧
    (63 : Fin 64).val = 4 * (15 : Fin 16).val + (3 : Fin 4).val := by decide

theorem test_witness_DigestTextDeterminesTheState : hexText iv true = hexText State.reset.h true ∧
    (62 : Fin 64).val = 2 * (31 : Fin 32).val ∧ (63 : Fin 64).val = 2 * (31 : Fin 32).val + 1 := by decide

theorem test_witness_CaseChangesNothingElse : Reg.result ≠ .cfg ∧ ∀ j, Reg.result ≠ .hex j := by decide

theorem test_witness_EverySlotIsOneRegister : 0x1FC < 512 ∧ 0x1FC % 4 = 0 ∧ (Reg.k 63).offset = 0x1FC := by decide

theorem test_witness_OtherAccessesAreRefused : (4 = 4 ∧ 0x1FC < 512 ∧ 0x1FC % 4 = 0) ∧
    ¬ (2 = 4 ∧ 0x004 < 512 ∧ 0x004 % 4 = 0) ∧ ¬ (4 = 4 ∧ 0x200 < 512 ∧ 0x200 % 4 = 0) ∧
    ¬ (4 = 4 ∧ 0x1FF < 512 ∧ 0x1FF % 4 = 0) := by decide

theorem test_witness_WindowWrites : Reg.lenLo ∈ [Reg.id, .status, .result, .lenHi, .lenLo] := by decide

theorem test_witness_ReadsHaveNoSideEffect :
    hostStep (.read 0x1FC 4 .keep) State.reset = .next { State.reset with reads := [0xC67178F2] } ∧ 0x00C ≠ 0x004 ∧
    memWrite 0x00C 4 0xFFFFFFFF State.reset = .next { State.reset with cfgUpper := true } ∧
    (∀ n ∈ [0, 488], (openAt n).status.busy = false ∧ (openAt n).status.msgOpen = true ∧
      (openAt n).len.toNat / 8 % 64 < 62 ∧ (openAt n).len.toNat + 16 ≤ 2 ^ 64 - 1) := by
  (repeat' apply And.intro) <;> first | rfl | decide

theorem test_witness_ResetEventRestoresTheCore :
    HostNext .reset [waitStmt] { busyAt 30 true true with prog := [.reset, waitStmt], slack := 1 } := ⟨rfl, by decide⟩

theorem test_witness_StepRunsTheDecodedCommand :
    HostNext (.write 0x004 4 (.lit 0x00000012)) [waitStmt] { openAt 0 with prog := [.write 0x004 4 (.lit 0x00000012), waitStmt] } ∧
    decode 0x00000012 = .command .final ∧
    HostNext (.write 0x004 4 (.lit 0x0000000A)) [] { busyAt 3 false true with prog := [.write 0x004 4 (.lit 0x0000000A)], slack := 1 } ∧
    decode 0x0000000A = .illegal .unassignedOpcode ∧ 0xFFFFFFFF < 2 ^ 32 :=
  ⟨⟨rfl, by decide⟩, by decide, ⟨rfl, by decide⟩, by decide, by decide⟩

theorem test_witness_StepRunsHostStatements :
    (Reg.op 4 ≠ .cmd ∧ HostNext (wr (.op 4) (.lit 0xFFFFFFFF)) [] (hosting [wr (.op 4) (.lit 0xFFFFFFFF)])) ∧
    HostNext (rd .status) [waitStmt] (hosting [rd .status, waitStmt]) ∧
    (HostNext (.poll Reg.status.offset (.lit 1) (.lit 0)) [] (hosting [waitStmt]) ∧ readReg .status (hosting [waitStmt]) &&& 1 = 0) ∧
    (HostNext (.poll Reg.status.offset (.lit 1) (.lit 0)) [] { busyAt 64 false true with prog := [waitStmt], slack := 2 } ∧
      readReg .status { busyAt 64 false true with prog := [waitStmt], slack := 2 } &&& 1 ≠ 0) :=
  ⟨⟨by decide, rfl, by decide⟩, ⟨rfl, by decide⟩, ⟨⟨rfl, by decide⟩, by decide⟩, ⟨⟨rfl, by decide⟩, by decide⟩⟩

/-- A bound name as the value of a `wr`, of a `poll` and of a check. -/
theorem test_witness_StepRunsHostStatements_names :
    HostNext (wr (.op 0) (.name 3)) [] { hosting [wr (.op 0) (.name 3)] with vars := [(3, 9)] } ∧
    valueOf (.name 3) { State.reset with vars := [(3, 9)] } = 9 ∧
    (HostNext (.poll Reg.id.offset (.name 3) (.lit 0)) [] { hosting [.poll 0 (.name 3) (.lit 0)] with vars := [(3, 9)] } ∧
      readReg .id State.reset &&& 9 = 0) :=
  ⟨⟨rfl, by decide⟩, by decide, ⟨rfl, by decide⟩, by decide⟩

/-- A word that is a bound name, and one that is illegal. -/
theorem test_witness_StepRunsTheDecodedCommand_names :
    HostNext (.write 0x004 4 (.name 0)) [] { hosting [.write 0x004 4 (.name 0)] with vars := [(0, 0x00000012)] } ∧
    decode (valueOf (.name 0) { State.reset with vars := [(0, 0x00000012)] }) = .command .final ∧
    decode (valueOf (.name 0) { State.reset with vars := [(0, 0x0000000A)] }) = .illegal .unassignedOpcode :=
  ⟨⟨rfl, by decide⟩, by decide, by decide⟩

theorem test_witness_HostNamesCarryWords :
    HostNext (rdBind (.k 63) 0) [waitStmt] (hosting [rdBind (.k 63) 0, waitStmt]) ∧ (1 : Nat) ≠ 0 ∧
    HostNext (rdCheck .id (.lit 0x53323536)) [] (hosting [rdCheck .id (.lit 0x53323536)]) ∧
    (step State.reset = .next State.reset ∧ ∀ r n rest, ¬ HostNext (rdBind r n) rest State.reset) :=
  ⟨⟨rfl, by decide⟩, by decide, ⟨rfl, by decide⟩, rfl, fun _ _ _ h => by obtain ⟨h, -⟩ := h; cases h⟩

theorem test_witness_EitherAgentMayMove : (busyAt 0 false true).status.busy = true ∧ (busyAt 0 false true).prog = [] ∧
    { busyAt 0 false true with prog := [waitStmt] }.prog = waitStmt :: [] ∧ State.reset.status.busy = false ∧
    (hosting [waitStmt]).status.busy = false ∧ (hosting [waitStmt]).prog = waitStmt :: [] ∧ State.reset.prog = [] ∧
    { State.reset with lags := [5] }.lags = 5 :: [] := by decide

theorem test_witness_HostCannotHoldTheEngine :
    let s := { busyAt 0 false true with prog := [waitStmt, rd .status], slack := 1 }
    s.status.busy = true ∧ engineTurn s = false ∧ step s = .next { s with slack := 0 } := by
  (repeat' apply And.intro) <;> rfl

/-- The clauses of `RegisterWriters`: a step by the host that changes the register. -/
theorem test_witness_RegisterWriters :
    (∀ p ∈ [[wr (.op 4) (.lit 7)], [wr .cmd (.lit 0x00000006)], [wr .cfg (.lit 1)]],
      ∃ t, step { withOps 1 0 0 0 0 with prog := p } = .next t ∧
        ¬ HostResets { withOps 1 0 0 0 0 with prog := p }) ∧
    (after (step { withOps 1 0 0 0 0 with prog := [wr (.op 4) (.lit 7)] })).op ≠ (withOps 1 0 0 0 0).op ∧
    (after (step { withOps 1 0 0 0 0 with prog := [wr .cmd (.lit 0x00000006)] })).result ≠ (withOps 1 0 0 0 0).result ∧
    (after (step { withOps 1 0 0 0 0 with prog := [wr .cfg (.lit 1)] })).cfgUpper ≠ (withOps 1 0 0 0 0).cfgUpper ∧
    (after (step { openAt 504 with prog := [wr .cmd (.lit 0x00006111)] })).m ≠ (openAt 504).m ∧
    (after (step { openAt 504 with prog := [wr .cmd (.lit 0x00006111)] })).len ≠ (openAt 504).len ∧
    (after (step { openAt 504 with prog := [wr .cmd (.lit 0x00006111)] })).wv ≠ (openAt 504).wv ∧
    (after (step { openAt 504 with prog := [wr .cmd (.lit 0x00006111)] })).w ≠ (openAt 504).w ∧
    (after (step { openAt 448 with prog := [wr .cmd (.lit 0x00000012)] })).m ≠ (openAt 448).m ∧
    (after (step { openAt 448 with prog := [wr .cmd (.lit 0x00000012)] })).wv ≠ (openAt 448).wv ∧
    (after (step { openAt 448 with prog := [wr .cmd (.lit 0x00000012)] })).w ≠ (openAt 448).w := by
  refine ⟨?_, by decide, by decide, by decide, by decide, by decide, by decide, by decide, by decide, by decide, by decide⟩
  intro p hp
  simp only [List.mem_cons, List.not_mem_nil, or_false] at hp
  rcases hp with rfl | rfl | rfl <;> exact ⟨_, rfl, by rintro ⟨_, h, _⟩; cases h⟩

/-- The clauses of `RegisterWriters` and `FlagWriters` that name the engine. -/
theorem test_witness_RegisterWriters_engine :
    ¬ HostResets (busyAt 64 true true) ∧ FeedForwardStep (busyAt 64 true true) ∧
    (after (step { busyAt 64 true true with len := 0x1C0, wv := iv })).m ≠ (busyAt 64 true true).m ∧
    (after (step { busyAt 64 true true with len := 0x1C0, wv := iv })).h ≠ (busyAt 64 true true).h ∧
    (after (step { busyAt 64 true true with len := 0x1C0, wv := iv })).wv ≠ iv ∧
    (after (step { busyAt 64 true true with len := 0x1C0, wv := iv })).w ≠ (busyAt 64 true true).w ∧
    (after (step { openAt 8 with h := #v[0, 0, 0, 0, 0, 0, 0, 0], prog := [wr .cmd (.lit 0x00000010)] })).len ≠ (openAt 8).len ∧
    (after (step { openAt 8 with h := #v[0, 0, 0, 0, 0, 0, 0, 0], prog := [wr .cmd (.lit 0x00000010)] })).h ≠
      #v[0, 0, 0, 0, 0, 0, 0, 0] :=
  ⟨(fun h => by obtain ⟨_, h, _⟩ := h; cases h), ⟨by decide, by decide⟩, by decide, by decide, by decide, by decide,
    by decide, by decide⟩

/-- A `FINAL` with two final Blocks, an `INIT`, an `ABSORB` that is too much and one that fills a Block. -/
def finalStep : State := { openAt 448 with prog := [wr .cmd (.lit 0x00000012)] }
def initStep : State := { finished with prog := [wr .cmd (.lit 0x00000010)] }
def tooLongStep : State := { openAt 0xFFFFFFFFFFFFFFF8 with prog := [wr .cmd (.lit 0x00000011)] }
def fullBlockStep : State := { openAt 504 with prog := [wr .cmd (.lit 0x00006111)] }

/-- The premises of `FlagWriters`: these steps answer a next state and are no reset. -/
theorem test_witness_FlagWriters :
    ∀ s ∈ [finalStep, initStep, tooLongStep, fullBlockStep, busyAt 64 true true, busyAt 64 false true, busyAt 0 false true],
      step s = .next (after (step s)) ∧ ¬ HostResets s := by
  intro s hs
  simp only [List.mem_cons, List.not_mem_nil, or_false] at hs
  rcases hs with rfl | rfl | rfl | rfl | rfl | rfl | rfl <;>
    exact ⟨rfl, by rintro ⟨_, h, _⟩; cases h⟩

/-- The clauses of `FlagWriters`: between them they set and clear every flag and move `ROUND`. -/
theorem test_witness_FlagWriters_clauses :
    (finalStep.status = { Status.reset with msgOpen := true } ∧ (after (step finalStep)).status =
      { Status.reset with busy := true, finalPend := true, pend2 := true }) ∧
    (initStep.status = { Status.reset with done := true, round := 64 } ∧ (after (step initStep)).status =
      { Status.reset with msgOpen := true, round := 64 }) ∧
    (tooLongStep.status.msgOpen = true ∧ (after (step tooLongStep)).status.msgOpen = false) ∧
    (fullBlockStep.status.busy = false ∧ (after (step fullBlockStep)).status.busy = true) ∧
    (after (step (busyAt 64 true true))).status = { Status.reset with busy := true, finalPend := true } ∧
    (after (step (busyAt 64 false true))).status = { Status.reset with done := true, round := 64 } ∧
    (after (step (busyAt 0 false true))).status.round = 1 := by decide

/-- A busy state in which no clause of `Inv` is empty, and a step from it. -/
theorem test_witness_EveryStepKeepsTheInvariants : Inv (busyAt 64 true true) ∧ Inv finished ∧
    Inv (openAt 0xFFFFFFFFFFFFFFF8) ∧ step (busyAt 63 true true) = .next (after (step (busyAt 63 true true))) :=
  ⟨by constructor <;> decide, by constructor <;> decide, by constructor <;> decide, rfl⟩

theorem test_witness_EveryStepKeepsLegalCodes : CodeInv (recorded .inputTooLarge) ∧
    step { recorded .inputTooLarge with prog := [wr .cmd (.lit 0x0000000A)] } = .next (recorded .inputTooLarge) :=
  ⟨by constructor <;> decide, rfl⟩

end Sys2Proof.Tests
end

/-! ### Writes in the register window (20_memory.md R53 to R55) -/

namespace Sys2Proof.Machine

/-- Every aligned offset of the window is a register's (20_memory.md R50, R51). -/
theorem exists_reg_of_offset {off : Nat} (hwin : off < 512) (hal : off % 4 = 0) : ∃ r : Reg, r.offset = off :=
  ⟨regOfSlot ⟨off / 4, by omega⟩, by rw [regOfSlot_offset]; dsimp only; omega⟩

/-- Only `CMD`, `CFG` and `OP[i]` react to a write (20_memory.md R55). -/
theorem writeReg_of_ne {r : Reg} (hcmd : r ≠ .cmd) (hcfg : r ≠ .cfg) (hop : ∀ i, r ≠ .op i) (v : Word) (s : State) :
    writeReg r v s = .next s := by
  cases r with
  | cmd => exact absurd rfl hcmd
  | cfg => exact absurd rfl hcfg
  | op i => exact absurd rfl (hop i)
  | _ => rfl

/-- The three writable registers all lie below `RESULT`, the register at 0x024. -/
theorem writeReg_of_result_le {r : Reg} (h : Reg.result.offset ≤ r.offset) (v : Word) (s : State) :
    writeReg r v s = .next s := by
  refine writeReg_of_ne ?_ ?_ (fun i => ?_) v s <;> rintro rfl <;> simp only [Reg.offset] at h <;> omega

theorem memWrite_of_result_le {off : Nat} (hle : Reg.result.offset ≤ off) (hwin : off < 512) (hal : off % 4 = 0)
    (v : Word) (s : State) : memWrite off 4 v s = .next s := by
  obtain ⟨r, rfl⟩ := exists_reg_of_offset hwin hal
  rw [memWrite_offset, writeReg_of_result_le hle]

/-- Settles O47: `OP[i]`, `CFG` and the reads by their entries in the register map, the five named registers because
none of them is writable, and the slots from 0x030 on because every writable register lies below 0x024. -/
theorem windowWrites : Obligations.WindowWrites := by
  unfold Obligations.WindowWrites
  intro v s
  have ignored : ∀ r ∈ [Reg.id, .status, .result, .lenHi, .lenLo], memWrite r.offset 4 v s = .next s := by
    intro r hr
    rw [memWrite_offset]
    refine writeReg_of_ne ?_ ?_ (fun i => ?_) v s <;> rintro rfl <;> simp at hr
  have above : ∀ off, 0x024 ≤ off → off < 512 → off % 4 = 0 → memWrite off 4 v s = .next s :=
    fun off hle hwin hal => memWrite_of_result_le hle hwin hal v s
  exact ⟨fun i => memWrite_offset (.op i) v s, memWrite_offset .cfg v s, ignored,
    fun i => ⟨above _ (by omega) (by omega) (by omega), memRead_offset (.reserved i) s⟩,
    fun i => above _ (by omega) (by omega) (by omega), memRead_offset .cmd s⟩

end Sys2Proof.Machine

/-! ### The seven checks of a command word (30_encoding.md R74, 60_exceptions.md R180) -/

namespace Sys2Proof.Machine

/-! Checks 1 and 2: the decoder, with the fields as numbers. -/

theorem usesImm_eq_false_iff (i : Instr) : usesImm i = false ↔ i.opcode.toNat ≠ 0x11 := by
  cases i <;> simp [usesImm, Instr.opcode]

theorem usesN6_eq_false_iff (i : Instr) : usesN6 i = false ↔ i.opcode.toNat ∉ [0x01, 0x02, 0x03] := by
  cases i <;> simp [usesN6, Instr.opcode]

/-- Check 2 as the decoder tests it, on the command that the opcode of `v` names. -/
theorem nonzeroField_iff {v : Word} {i : Instr} (ho : i.opcode.toNat = opcodeOf v) :
    nonzeroField v ↔
      rsvField v ≠ 0 ∨ (immField v ≠ 0 ∧ usesImm i = false) ∨ (n6Field v ≠ 0 ∧ usesN6 i = false) := by
  simp only [nonzeroField, field_ne_zero, rsvField_toNat, immField_toNat, n6Field_toNat, usesImm_eq_false_iff,
    usesN6_eq_false_iff, ho]

/-- Every assigned opcode names a command, whose opcode it is (R73). -/
theorem exists_commandOf {v : Word} (ha : opcodeOf v ∈ assignedOpcodes) :
    ∃ i, commandOf (opcField v) (immField v) (n6Field v) = some i ∧ i.opcode.toNat = opcodeOf v := by
  obtain ⟨i, hi⟩ := (commandOf_isSome (opcField v) (immField v) (n6Field v)).2 (by rwa [opcField_toNat])
  exact ⟨i, hi, by rw [(commandOf_eq_some hi).1, opcField_toNat]⟩

theorem decode_of_unassigned {v : Word} (ha : opcodeOf v ∉ assignedOpcodes) :
    decode v = .illegal .unassignedOpcode := by
  have hnone : commandOf (opcField v) (immField v) (n6Field v) = none := by
    rw [Option.eq_none_iff_forall_ne_some]
    exact fun i hi => ha (opcField_toNat v ▸ (commandOf_isSome _ _ _).1 ⟨i, hi⟩)
  simp only [decode, hnone]

theorem decode_of_nonzeroField {v : Word} (ha : opcodeOf v ∈ assignedOpcodes) (hz : nonzeroField v) :
    decode v = .illegal .nonzeroField := by
  obtain ⟨i, hi, ho⟩ := exists_commandOf ha
  simp only [decode, hi, if_pos ((nonzeroField_iff ho).1 hz)]

/-- A word past checks 1 and 2 is the command its opcode names. -/
theorem decode_of_legal {v : Word} (ha : opcodeOf v ∈ assignedOpcodes) (hz : ¬ nonzeroField v) :
    ∃ i, decode v = .command i ∧ i.opcode.toNat = opcodeOf v := by
  obtain ⟨i, hi, ho⟩ := exists_commandOf ha
  exact ⟨i, by simp only [decode, hi, if_neg (mt (nonzeroField_iff ho).2 hz)], ho⟩

/-- The rows of R73 whose commands have checks of their own, with the operands of `v`. -/
theorem instr_of_opcode {v : Word} {i : Instr} (h : decode v = .command i) :
    (opcodeOf v = 0x01 → i = .rotr (amountOf v)) ∧ (opcodeOf v = 0x02 → i = .shr (amountOf v)) ∧
    (opcodeOf v = 0x03 → i = .add (amountOf v)) ∧ (opcodeOf v = 0x10 → i = .init) ∧
    (opcodeOf v = 0x11 → i = .absorb (immField v)) ∧ (opcodeOf v = 0x12 → i = .final) := by
  obtain ⟨hi, -⟩ := decode_eq_command h
  refine ⟨?_, ?_, ?_, ?_, ?_, ?_⟩ <;> intro ho <;>
    simpa [commandOf, opcField_toNat, n6Field_toNat, ho, eq_comm] using hi

/-! Checks 3 to 7: the rejections of the commands, one lemma a command and check. -/

theorem exec_rotr_shiftRange {n : Nat} (hn : 32 ≤ n) (s : State) :
    exec (.rotr n) s = .next (reject .shiftRange s) := if_neg hn.not_gt

theorem exec_shr_shiftRange {n : Nat} (hn : 32 ≤ n) (s : State) :
    exec (.shr n) s = .next (reject .shiftRange s) := if_neg hn.not_gt

theorem exec_add_addCount {n : Nat} (hn : n ∉ [2, 3, 4, 5]) (s : State) :
    exec (.add n) s = .next (reject .addCount s) :=
  if_neg fun h => hn (by simp only [List.mem_cons, List.not_mem_nil]; omega)

theorem exec_init_busy {s : State} (hb : s.status.busy = true) : exec .init s = .next (reject .busy s) := if_pos hb

theorem exec_absorb_busy {s : State} (hb : s.status.busy = true) (b : Byte) :
    exec (.absorb b) s = .next (reject .busy s) := if_pos hb

theorem exec_final_busy {s : State} (hb : s.status.busy = true) : exec .final s = .next (reject .busy s) := if_pos hb

theorem exec_absorb_sequence {s : State} (hb : s.status.busy = false) (hm : s.status.msgOpen = false) (b : Byte) :
    exec (.absorb b) s = .next (reject .sequence s) := by
  simp [exec, execAbsorb, hb, hm]

theorem exec_final_sequence {s : State} (hb : s.status.busy = false) (hm : s.status.msgOpen = false) :
    exec .final s = .next (reject .sequence s) := by
  simp [exec, execFinal, hb, hm]

theorem exec_absorb_inputTooLarge {s : State} (hb : s.status.busy = false) (hm : s.status.msgOpen = true)
    (hl : 2 ^ 64 - 1 < s.len.toNat + 8) (b : Byte) : exec (.absorb b) s = .next (reject .inputTooLarge s) := by
  simp only [exec, execAbsorb, hb, hm, if_pos hl, Bool.false_eq_true, Bool.true_eq_false, if_false]

/-- A word that is no command is rejected, whichever of checks 1 and 2 it fails. -/
theorem command_of_illegal {v : Word} {why : Illegal} (h : decode v = .illegal why) (s : State) :
    command v s = .next (reject .illegalCmd s) := by
  simp only [command, h]

theorem command_of_decode {v : Word} {i : Instr} (h : decode v = .command i) (s : State) :
    command v s = exec i s := by
  simp only [command, h]

/-- Settles O6: checks 1 and 2 are the decoder's; past them the word is one command, and each of the checks 3 to 7 is a
rejection of the commands whose opcodes it names. -/
theorem checksRunInOrder : Obligations.ChecksRunInOrder := by
  unfold Obligations.ChecksRunInOrder
  intro v s
  refine ⟨fun ha => command_of_illegal (decode_of_unassigned ha) s, fun ha =>
    ⟨fun hz => command_of_illegal (decode_of_nonzeroField ha hz) s, fun hz => ?_⟩⟩
  obtain ⟨i, hd, ho⟩ := decode_of_legal ha hz
  obtain ⟨hrotr, hshr, hadd, hinit, habsorb, hfinal⟩ := instr_of_opcode hd
  rw [command_of_decode hd s]
  simp only [List.mem_cons, List.not_mem_nil, or_false]
  refine ⟨?shiftRange, ?addCount, ?busy, ?sequence, ?inputTooLarge, i, hd, ho, rfl⟩
  case shiftRange =>
    rintro (hv | hv) hn
    · rw [hrotr hv, exec_rotr_shiftRange hn]
    · rw [hshr hv, exec_shr_shiftRange hn]
  case addCount =>
    intro hv hn
    rw [hadd hv, exec_add_addCount (by simpa using hn)]
  case busy =>
    rintro (hv | hv | hv) hb
    · rw [hinit hv, exec_init_busy hb]
    · rw [habsorb hv, exec_absorb_busy hb]
    · rw [hfinal hv, exec_final_busy hb]
  case sequence =>
    rintro (hv | hv) hb hm
    · rw [habsorb hv, exec_absorb_sequence hb hm]
    · rw [hfinal hv, exec_final_sequence hb hm]
  case inputTooLarge =>
    intro hv hb hm hl
    rw [habsorb hv, exec_absorb_inputTooLarge hb hm hl]

end Sys2Proof.Machine

/-! ### Command words by their opcode (30_encoding.md R74 checks 1 and 2) -/

namespace Sys2Proof.Machine

theorem command_of_nonzeroField {v : Word} (ha : opcodeOf v ∈ assignedOpcodes) (hz : nonzeroField v) (s : State) :
    command v s = .next (reject .illegalCmd s) :=
  command_of_illegal (decode_of_nonzeroField ha hz) s

/-- The opcodes whose commands take `N6`: only `IMM8` and `RSV` must be 0. -/
theorem nonzeroField_iff_of_usesN6 {v : Word} (ho : opcodeOf v ∈ [0x01, 0x02, 0x03]) :
    nonzeroField v ↔ immOf v ≠ 0 ∨ reservedOf v ≠ 0 := by
  have himm : opcodeOf v ≠ 0x11 := by rintro h; simp [h] at ho
  unfold nonzeroField
  tauto

/-- The opcodes whose commands take no operand: the whole word is the opcode. -/
theorem nonzeroField_iff_toNat_ne {v : Word} (ho : opcodeOf v ∉ [0x01, 0x02, 0x03, 0x11]) :
    nonzeroField v ↔ v.toNat ≠ opcodeOf v := by
  simp only [List.mem_cons, List.not_mem_nil, or_false, not_or] at ho
  obtain ⟨hrotr, hshr, hadd, habsorb⟩ := ho
  simp only [nonzeroField, habsorb, hrotr, hshr, hadd, ne_eq, not_false_eq_true, List.mem_cons, List.not_mem_nil,
    or_false, and_true]
  unfold reservedOf immOf amountOf opcodeOf
  omega

/-- `ROTR`, `SHR` and `ADD` words (R100 to R102): `i` is the one command that a word with the opcode of `v` can spell. -/
theorem command_of_usesN6 {v : Word} {i : Instr} (ho : opcodeOf v ∈ [0x01, 0x02, 0x03])
    (hi : ∀ j, decode v = .command j → j = i) (s : State) :
    (immOf v ≠ 0 ∨ reservedOf v ≠ 0 → command v s = .next (reject .illegalCmd s)) ∧
    (immOf v = 0 → reservedOf v = 0 → command v s = exec i s) := by
  have ha : opcodeOf v ∈ assignedOpcodes := by
    simp only [assignedOpcodes, List.mem_cons, List.not_mem_nil, or_false] at ho ⊢
    tauto
  refine ⟨fun hz => command_of_nonzeroField ha ((nonzeroField_iff_of_usesN6 ho).2 hz) s, fun himm hrsv => ?_⟩
  have hlegal : ¬ nonzeroField v := by simp [nonzeroField_iff_of_usesN6 ho, himm, hrsv]
  obtain ⟨j, hd, -⟩ := decode_of_legal ha hlegal
  rw [command_of_decode hd, hi j hd]

/-- A word of a command without operands that is more than its opcode is rejected. -/
theorem command_of_toNat_ne {v : Word} (ha : opcodeOf v ∈ assignedOpcodes)
    (ho : opcodeOf v ∉ [0x01, 0x02, 0x03, 0x11]) (hne : v.toNat ≠ opcodeOf v) (s : State) :
    command v s = .next (reject .illegalCmd s) :=
  command_of_nonzeroField ha ((nonzeroField_iff_toNat_ne ho).2 hne) s

/-- The single word `c` of a command without operands (R103, R104): its opcode is `c` itself. -/
theorem command_of_exactWord {v c : Word} {i : Instr} (hd : decode c = .command i) (hc : opcodeOf v = c.toNat)
    (ha : c.toNat ∈ assignedOpcodes) (ho : c.toNat ∉ [0x01, 0x02, 0x03, 0x11]) (s : State) :
    (v = c → command v s = exec i s) ∧ (v ≠ c → command v s = .next (reject .illegalCmd s)) := by
  constructor
  · rintro rfl
    exact command_of_decode hd s
  · intro hne
    refine command_of_toNat_ne (hc ▸ ha) (hc ▸ ho) (fun h => hne ?_) s
    exact BitVec.eq_of_toNat_eq (h.trans hc)

end Sys2Proof.Machine

/-! ### The word functions at special arguments (40_word_ops.md R91 to R94) -/

namespace Sys2Proof.Machine

@[simp] theorem rotr_zero (x : Word) : rotr x 0 = x := by
  apply BitVec.eq_of_getLsbD_eq
  intro i hi
  rw [getLsbD_rotr x 0 i (by decide) hi, Nat.add_zero, Nat.mod_eq_of_lt hi]

theorem zero_rotr (n : Nat) : rotr 0 n = 0 := by
  simp [rotr]

theorem allOnes_rotr {n : Nat} (hn : n < 32) : rotr (BitVec.allOnes 32) n = BitVec.allOnes 32 := by
  apply BitVec.eq_of_getLsbD_eq
  intro i hi
  have hmod : (i + n) % 32 < 32 := Nat.mod_lt _ (by decide)
  rw [getLsbD_rotr _ n i hn hi, BitVec.getLsbD_allOnes, BitVec.getLsbD_allOnes, decide_eq_true hmod, decide_eq_true hi]

@[simp] theorem shr_zero (x : Word) : shr x 0 = x :=
  BitVec.ushiftRight_zero x

theorem toNat_shr (x : Word) (n : Nat) : (shr x n).toNat = x.toNat / 2 ^ n := by
  rw [shr, BitVec.toNat_ushiftRight, Nat.shiftRight_eq_div_pow]

/-- The `n` bits that `shr` shifts in are 0. -/
theorem getLsbD_shr_of_le {n i : Nat} (h : 32 ≤ n + i) (x : Word) : (shr x n).getLsbD i = false := by
  rw [getLsbD_shr, BitVec.getLsbD_of_ge x _ h]

/-- Only the top bit is left after a shift by 31. -/
theorem shr_thirtyOne (x : Word) : shr x 31 = if x.getLsbD 31 then 1 else 0 := by
  apply BitVec.eq_of_getLsbD_eq
  intro i hi
  cases i with
  | zero => rw [getLsbD_shr]; cases x.getLsbD 31 <;> rfl
  | succ i => rw [getLsbD_shr_of_le (by omega)]; split <;> simp

theorem ch_zero (y z : Word) : ch 0 y z = z := by
  show (0#32 &&& y) ^^^ (~~~0#32 &&& z) = z
  rw [BitVec.zero_and, BitVec.not_zero, BitVec.allOnes_and, BitVec.zero_xor]

theorem ch_allOnes (y z : Word) : ch (BitVec.allOnes 32) y z = y := by
  rw [ch, BitVec.allOnes_and, BitVec.not_allOnes, BitVec.zero_and, BitVec.xor_zero]

theorem ch_self (x y : Word) : ch x y y = y := by
  ext i
  simp only [ch, BitVec.getElem_xor, BitVec.getElem_and, BitVec.getElem_not]
  cases x[i] <;> simp

theorem maj_self (x z : Word) : maj x x z = x := by
  simp [maj]

/-- Settles O11: a right shift is the division by `2^n`, and a bit it shifts in lies beyond the top bit of `x`. -/
theorem shrShiftsInZeros : Obligations.ShrShiftsInZeros := by
  unfold Obligations.ShrShiftsInZeros
  intro x n _
  exact ⟨toNat_shr x n, fun i hle _ => getLsbD_shr_of_le (by omega) x, shr_zero x⟩

end Sys2Proof.Machine

/-! ### The WordOps commands (40_word_ops.md R100 to R108) -/

namespace Sys2Proof.Machine

theorem exec_rotr {n : Nat} (hn : n < 32) (s : State) :
    exec (.rotr n) s = .next { s with result := rotr s.op[0] n } := if_pos hn

theorem exec_shr {n : Nat} (hn : n < 32) (s : State) :
    exec (.shr n) s = .next { s with result := s.op[0] >>> n } := if_pos hn

theorem exec_add {n : Nat} (hn : 2 ≤ n ∧ n ≤ 5) (s : State) :
    exec (.add n) s = .next { s with result := addMod (addOperands s n) } := if_pos hn

theorem op_toList (s : State) : s.op.toList = [s.op[0], s.op[1], s.op[2], s.op[3], s.op[4]] := by
  rw [← List.ofFn_getElem (xs := s.op.toList)]
  simp [List.ofFn_succ]

/-- Settles O15: each clause is one fact about `exec`, about the words with opcode 0x01, or about `rotr`. -/
theorem rotrCommand : Obligations.RotrCommand := by
  unfold Obligations.RotrCommand
  refine ⟨fun s n hn => exec_rotr hn s, fun s n hn => ⟨exec_rotr_shiftRange hn s, reject_result s _⟩, ?words,
    fun x => ⟨rotr_zero x, rfl⟩, fun n hn => ⟨zero_rotr n, allOnes_rotr hn⟩, ?vector⟩
  case words =>
    intro v s ho
    refine command_of_usesN6 (by simp [ho]) (fun j hd => ?_) s
    obtain ⟨hrotr, -⟩ := instr_of_opcode hd
    exact hrotr ho
  case vector =>
    intro s hx
    have hd : decode 0x00040001 = .command (.rotr 4) := by decide
    rw [command_of_decode hd, exec_rotr (by decide), hx]
    rfl

/-- Settles O16: each clause is one fact about `exec`, about the words with opcode 0x02, or about `shr`. -/
theorem shrCommand : Obligations.ShrCommand := by
  unfold Obligations.ShrCommand
  refine ⟨fun s n hn => exec_shr hn s, fun s n hn => ⟨exec_shr_shiftRange hn s, reject_result s _⟩, ?words,
    fun x => ⟨shr_zero x, shr_thirtyOne x⟩, ?vector⟩
  case words =>
    intro v s ho
    refine command_of_usesN6 (by simp [ho]) (fun j hd => ?_) s
    obtain ⟨-, hshr, -⟩ := instr_of_opcode hd
    exact hshr ho
  case vector =>
    intro s hx
    have hd : decode 0x001F0002 = .command (.shr 31) := by decide
    rw [command_of_decode hd, exec_shr (by decide), hx]
    rfl

/-- The sums of the four legal counts, written out (R102). -/
theorem exec_add_sums :
    (∀ s : State, exec (.add 2) s = .next { s with result := s.op[0] + s.op[1] }) ∧
    (∀ s : State, exec (.add 3) s = .next { s with result := s.op[0] + s.op[1] + s.op[2] }) ∧
    (∀ s : State, exec (.add 4) s = .next { s with result := s.op[0] + s.op[1] + s.op[2] + s.op[3] }) ∧
    (∀ s : State, exec (.add 5) s = .next { s with result := s.op[0] + s.op[1] + s.op[2] + s.op[3] + s.op[4] }) := by
  refine ⟨fun s => ?_, fun s => ?_, fun s => ?_, fun s => ?_⟩ <;>
    rw [exec_add (by decide)] <;>
    simp [addOperands, op_toList, addMod_cons, BitVec.add_assoc]

/-- Settles O17: the corner cases and the example follow from the sums. -/
theorem addCommand : Obligations.AddCommand := by
  unfold Obligations.AddCommand
  obtain ⟨two, three, four, five⟩ := exec_add_sums
  refine ⟨two, three, four, five, fun s n hn => ⟨exec_add_addCount hn s, reject_result s _⟩, ?words, ?ones, ?wrap,
    ?vector⟩
  case words =>
    intro v s ho
    refine command_of_usesN6 (by simp [ho]) (fun j hd => ?_) s
    obtain ⟨-, -, hadd, -⟩ := instr_of_opcode hd
    exact hadd ho
  case ones =>
    intro s hs
    have h0 : s.op[0] = 0xFFFFFFFF := hs 0
    have h1 : s.op[1] = 0xFFFFFFFF := hs 1
    have h2 : s.op[2] = 0xFFFFFFFF := hs 2
    have h3 : s.op[3] = 0xFFFFFFFF := hs 3
    have h4 : s.op[4] = 0xFFFFFFFF := hs 4
    rw [five, h0, h1, h2, h3, h4]
    rfl
  case wrap =>
    intro s hx hy
    rw [two, hx, hy]
    rfl
  case vector =>
    intro s hx hy
    have hd : decode 0x00020003 = .command (.add 2) := by decide
    rw [command_of_decode hd, two, hx, hy]
    rfl

/-- Settles O18: `CH` and `MAJ` are accepted by definition, and each has one word. -/
theorem chAndMajCommands : Obligations.ChAndMajCommands := by
  unfold Obligations.ChAndMajCommands
  exact ⟨fun _ => rfl, fun _ => rfl,
    fun v s ho => command_of_exactWord (by decide) ho (by decide) (by decide) s,
    fun v s ho => command_of_exactWord (by decide) ho (by decide) (by decide) s,
    fun x y z => ⟨ch_zero y z, ch_allOnes y z, ch_self x y, maj_self x z⟩,
    maj_self 0 _, maj_self _ 0, by decide, by decide⟩

theorem sigma_of_opcode {i : Instr} (ho : i.opcode.toNat ∈ [0x06, 0x07, 0x08, 0x09]) :
    i ∈ [Instr.bsig0, .bsig1, .ssig0, .ssig1] := by
  cases i <;> simp [Instr.opcode] at ho ⊢

/-- Settles O19: the sigma commands are accepted by definition, and a word of theirs has no field but the opcode. -/
theorem sigmaCommands : Obligations.SigmaCommands := by
  unfold Obligations.SigmaCommands
  refine ⟨fun _ => rfl, fun _ => rfl, fun _ => rfl, fun _ => rfl, ?words, by decide, by decide, by decide, by decide⟩
  intro v s ho
  have ha : opcodeOf v ∈ assignedOpcodes := by
    simp only [assignedOpcodes, List.mem_cons, List.not_mem_nil, or_false] at ho ⊢
    tauto
  have hno : opcodeOf v ∉ [0x01, 0x02, 0x03, 0x11] := by
    simp only [List.mem_cons, List.not_mem_nil, or_false] at ho ⊢
    omega
  refine ⟨fun heq => ?_, fun hne => command_of_toNat_ne ha hno hne s⟩
  obtain ⟨i, hd, hi⟩ := decode_of_legal ha (mt (nonzeroField_iff_toNat_ne hno).1 (not_not_intro heq))
  exact ⟨i, sigma_of_opcode (hi ▸ ho), hi, command_of_decode hd s⟩

end Sys2Proof.Machine

/-! ### The padder's commands (41_padder.md R112 to R115) -/

namespace Sys2Proof.Machine

/-- `byte(M, k)` as a number. -/
theorem toNat_getByte (m : Block) (k : Fin 64) :
    (getByte m k).toNat = m[k.val / 4].toNat / 2 ^ (24 - 8 * (k.val % 4)) % 2 ^ 8 := by
  rw [getByte, laneShift, BitVec.extractLsb'_toNat, Nat.shiftRight_eq_div_pow]

/-- Settles O24: the lane read as a number, the two laws of a byte write, and extensionality. -/
theorem bytesOfTheBlock : Obligations.BytesOfTheBlock := by
  unfold Obligations.BytesOfTheBlock
  exact fun m k b => ⟨toNat_getByte m k, getByte_putByte_self m k b, fun j hj => getByte_putByte_ne m k j b hj,
    fun _ => block_ext_bytes⟩

/-! The three commands accepted. -/

theorem exec_init {s : State} (hb : s.status.busy = false) : exec .init s = .next (openMessage s) := by
  simp [exec, execInit, hb]

theorem exec_absorb {s : State} (hb : s.status.busy = false) (hm : s.status.msgOpen = true)
    (hl : s.len.toNat + 8 ≤ 2 ^ 64 - 1) (b : Byte) : exec (.absorb b) s = .next (absorbByte b s) := by
  simp only [exec, execAbsorb, hb, hm, if_neg hl.not_gt, Bool.false_eq_true, Bool.true_eq_false, if_false]

theorem exec_final {s : State} (hb : s.status.busy = false) (hm : s.status.msgOpen = true) :
    exec .final s = .next (finaliseMessage s) := by
  simp [exec, execFinal, hb, hm]

theorem bytePos_eq {len : BitVec 64} {k : Fin 64} (hk : k.val = len.toNat / 8 % 64) : bytePos len = k :=
  Fin.ext (by rw [bytePos_val, hk])

/-- A byte before position 63 is only stored and counted (R114). -/
theorem absorbByte_of_ne {s : State} {k : Fin 64} (hk : k.val = s.len.toNat / 8 % 64) (hne : k.val ≠ 63) (b : Byte) :
    absorbByte b s = { s with m := putByte s.m k b, len := s.len + 8 } := by
  simp only [absorbByte, bytePos_eq hk, if_neg hne]

/-- The byte at position 63 completes the Block and starts it (R114). -/
theorem absorbByte_of_eq {s : State} {k : Fin 64} (hk : k.val = s.len.toNat / 8 % 64) (heq : k.val = 63) (b : Byte) :
    absorbByte b s = start { s with m := putByte s.m k b, len := s.len + 8 } := by
  simp only [absorbByte, bytePos_eq hk, if_pos heq]

/-- With room for a byte, `LEN` does not wrap (R117). -/
theorem toNat_len_add_eight {len : BitVec 64} (hl : len.toNat + 8 ≤ 2 ^ 64 - 1) :
    (len + 8).toNat = len.toNat + 8 :=
  BitVec.toNat_add_of_lt (show len.toNat + 8 < 2 ^ 64 by omega)

/-- `FINAL`'s state, with the position of the next byte as a number (R115). -/
theorem finaliseMessage_eq {s : State} {r : Nat} (hr : r = s.len.toNat / 8 % 64) :
    finaliseMessage s = start { s with
      m := finalBlock s.m s.len
      status := { s.status with msgOpen := false, finalPend := true, pend2 := decide (56 ≤ r) } } := by
  rw [finaliseMessage, bytePos_val, ← hr]
  rfl

/-- Settles O25: an accepted `INIT` is `openMessage` by definition, and its one word is 0x00000010. -/
theorem initOpensAMessage : Obligations.InitOpensAMessage := by
  unfold Obligations.InitOpensAMessage
  refine ⟨fun s hb => exec_init hb, fun s hb => exec_init_busy hb,
    fun v s ho => command_of_exactWord (by decide) ho (by decide) (by decide) s, ?vector⟩
  intro t h
  rw [exec_init (s := State.reset) rfl] at h
  obtain rfl := Host.Outcome.next.inj h
  exact ⟨by decide, rfl⟩

/-! `ABSORB`'s words: only `N6` and `RSV` must be 0. -/

theorem nonzeroField_iff_of_absorb {v : Word} (ho : opcodeOf v = 0x11) :
    nonzeroField v ↔ amountOf v ≠ 0 ∨ reservedOf v ≠ 0 := by
  simp [nonzeroField, ho, or_comm]

theorem ofNat_immOf (v : Word) : BitVec.ofNat 8 (immOf v) = immField v := by
  rw [← immField_toNat, BitVec.ofNat_toNat, BitVec.setWidth_eq]

theorem command_of_absorb {v : Word} (ho : opcodeOf v = 0x11) (s : State) :
    (amountOf v ≠ 0 ∨ reservedOf v ≠ 0 → command v s = .next (reject .illegalCmd s)) ∧
    (amountOf v = 0 → reservedOf v = 0 → command v s = exec (.absorb (BitVec.ofNat 8 (immOf v))) s) := by
  have ha : opcodeOf v ∈ assignedOpcodes := by simp [ho, assignedOpcodes]
  refine ⟨fun hz => command_of_nonzeroField ha ((nonzeroField_iff_of_absorb ho).2 hz) s, fun hn hrsv => ?_⟩
  have hlegal : ¬ nonzeroField v := by simp [nonzeroField_iff_of_absorb ho, hn, hrsv]
  obtain ⟨i, hd, -⟩ := decode_of_legal ha hlegal
  obtain ⟨-, -, -, -, habsorb, -⟩ := instr_of_opcode hd
  rw [command_of_decode hd, habsorb ho, ofNat_immOf]

/-- The first byte after an `INIT` goes to position 0 (R113, R114). -/
theorem exec_absorb_openMessage {s : State} (hb : s.status.busy = false) (b : Byte) :
    exec (.absorb b) (openMessage s) = .next { openMessage s with m := putByte s.m 0 b, len := 8 } := by
  have hlen : (openMessage s).len.toNat = 0 := rfl
  rw [exec_absorb (s := openMessage s) hb rfl (by rw [hlen]; decide) b,
    absorbByte_of_ne (k := 0) (by rw [hlen]; rfl) (by decide) b]
  rfl

/-- Settles O26: one lemma for each side of position 63, one for each rejection, one for the words; the rule's case is
the first byte after an `INIT`. -/
theorem absorbAppendsAByte : Obligations.AbsorbAppendsAByte := by
  unfold Obligations.AbsorbAppendsAByte
  refine ⟨?accepted, fun b s hb => exec_absorb_busy hb b, fun b s hb hm => exec_absorb_sequence hb hm b,
    fun b s hb hm hl => exec_absorb_inputTooLarge hb hm hl b, fun v s ho => command_of_absorb ho s, ?vector⟩
  case accepted =>
    intro b s k hb hm hl hk
    rw [exec_absorb hb hm hl]
    exact ⟨fun hne => by rw [absorbByte_of_ne hk hne], fun heq => by rw [absorbByte_of_eq hk heq],
      toNat_len_add_eight hl⟩
  case vector =>
    intro s t u hb ht hu
    have hinit : decode 0x00000010 = .command .init := by decide
    have habsorb : decode 0x00006111 = .command (.absorb 0x61) := by decide
    rw [command_of_decode hinit, exec_init hb] at ht
    obtain rfl := Host.Outcome.next.inj ht
    rw [command_of_decode habsorb, exec_absorb_openMessage hb] at hu
    obtain rfl := Host.Outcome.next.inj hu
    exact ⟨getByte_putByte_self s.m 0 0x61, rfl⟩

/-- Settles O28: the Block of the witness is `finalBlock`, whose bytes are R115's. -/
theorem finalPadsAndStarts : Obligations.FinalPadsAndStarts := by
  unfold Obligations.FinalPadsAndStarts
  refine ⟨fun s r hb hm hr => ⟨finalBlock s.m s.len, ?state, fun k => ?bytes⟩, fun s hb => exec_final_busy hb,
    fun s hb hm => exec_final_sequence hb hm,
    fun v s ho => command_of_exactWord (by decide) ho (by decide) (by decide) s⟩
  case state => rw [exec_final hb hm, finaliseMessage_eq hr]
  case bytes => rw [getByte_finalBlock, bytePos_val, ← hr]

end Sys2Proof.Machine

/-! ### The engine's two kinds of step (42_compressor.md R132 to R134, 41_padder.md R116) -/

namespace Sys2Proof.Machine

theorem engineStep_of_castSucc {s : State} {t : Fin 64} (h : s.status.round = t.castSucc) :
    engineStep s = roundStep t s := by
  simp [engineStep, h]

theorem engineStep_of_sixtyFour {s : State} (h : s.status.round = 64) : engineStep s = feedForward s := by
  simp [engineStep, h]

/-! A round step: the schedule, and the sums that R133 forms with `addMod`. -/

theorem extendSchedule_of_lt {t : Fin 64} (h : t.val < 16) (w : Schedule) : extendSchedule w t = w :=
  if_neg (Nat.not_le.2 h)

theorem extendSchedule_of_le {t : Fin 64} (h : 16 ≤ t.val) (w : Schedule) :
    extendSchedule w t = w.set t.val (scheduleWord w t) := if_pos h

theorem scheduleWord_eq (w : Schedule) (t : Fin 64) :
    scheduleWord w t = smallSigma1 w[t.val - 2] + w[t.val - 7] + smallSigma0 w[t.val - 15] + w[t.val - 16] := by
  simp [scheduleWord, addMod_cons, BitVec.add_assoc]

theorem temp1_eq (v : Hash) (k w : Word) :
    temp1 v k w = v[7] + bigSigma1 v[4] + ch v[4] v[5] v[6] + k + w := by
  simp [temp1, addMod_cons, BitVec.add_assoc]

theorem temp2_eq (v : Hash) : temp2 v = bigSigma0 v[0] + maj v[0] v[1] v[2] := addMod_pair _ _

theorem roundVars_eq (v : Hash) (k w : Word) :
    roundVars v k w =
      #v[temp1 v k w + temp2 v, v[0], v[1], v[2], v[3] + temp1 v k w, v[4], v[5], v[6]] := by
  simp only [roundVars, addMod_pair]

/-! The feed-forward step: the sum, the length-only Block, and the three ways on. -/

theorem addHash_getElem (h v : Hash) (i : Fin 8) : (addHash h v)[i] = h[i] + v[i] := by
  simp [addHash, addMod_pair]

theorem lengthBlock_getElem_of_lt (len : BitVec 64) {i : Nat} (hi : i < 14) : (lengthBlock len)[i] = 0 := by
  have h14 : 14 ≠ i := by omega
  have h15 : 15 ≠ i := by omega
  simp [lengthBlock, putLength, h14, h15]

theorem lengthBlock_getElem_fourteen (len : BitVec 64) : (lengthBlock len)[14] = lenHi len := by
  simp [lengthBlock, putLength]

theorem lengthBlock_getElem_fifteen (len : BitVec 64) : (lengthBlock len)[15] = lenLo len := by
  simp [lengthBlock, putLength]

theorem feedForward_of_pend2 {s : State} (h : s.status.pend2 = true) :
    feedForward s = start { s with h := addHash s.h s.wv, m := lengthBlock s.len,
                                   status := { s.status with pend2 := false } } := if_pos h

theorem feedForward_of_not_pend2 {s : State} (h : s.status.pend2 = false) :
    feedForward s = { s with h := addHash s.h s.wv, status := s.status.finishBlock } := by
  simp [feedForward, h]

theorem Status.finishBlock_of_finalPend {st : Status} (h : st.finalPend = true) :
    st.finishBlock = { st with busy := false, finalPend := false, done := true } := if_pos h

theorem Status.finishBlock_of_not_finalPend {st : Status} (h : st.finalPend = false) :
    st.finishBlock = { st with busy := false } := by
  simp [Status.finishBlock, h]

/-- Settles O32: the schedule of the witness is `extendSchedule`'s and the two temporaries are the model's, so the step
is `roundStep` with its sums written out. -/
theorem roundStepAdvancesTheBlock : Obligations.RoundStepAdvancesTheBlock := by
  unfold Obligations.RoundStepAdvancesTheBlock
  intro s t ht
  refine ⟨extendSchedule s.w t, fun h => extendSchedule_of_lt h s.w, fun h => ?schedule,
    temp1 s.wv kRom[t] (extendSchedule s.w t)[t], temp2 s.wv, temp1_eq _ _ _, temp2_eq _, ?state⟩
  case schedule => rw [extendSchedule_of_le h, scheduleWord_eq]
  case state => rw [engineStep_of_castSucc ht, ← roundVars_eq]; rfl

/-- Settles O33: `H` of the witness is `addHash`'s, the Block is `lengthBlock`, and each way on is one equation of
`feedForward`. -/
theorem feedForwardAddsAndContinues : Obligations.FeedForwardAddsAndContinues := by
  unfold Obligations.FeedForwardAddsAndContinues
  intro s hr
  rw [engineStep_of_sixtyFour hr]
  refine ⟨addHash s.h s.wv, addHash_getElem s.h s.wv, fun hp => ?lengthOnly, fun hp hf => ?finished,
    fun hp hf => ?ended⟩
  case lengthOnly =>
    exact ⟨lengthBlock s.len, fun _ => lengthBlock_getElem_of_lt s.len, lengthBlock_getElem_fourteen s.len,
      lengthBlock_getElem_fifteen s.len, feedForward_of_pend2 hp⟩
  case finished => rw [feedForward_of_not_pend2 hp, Status.finishBlock_of_finalPend hf]
  case ended => rw [feedForward_of_not_pend2 hp, Status.finishBlock_of_not_finalPend hf]

end Sys2Proof.Machine

/-! ### The hexadecimal view (43_digest_format.md R151 to R153) -/

namespace Sys2Proof.Machine

theorem toNat_hexchar_of_le {v : BitVec 4} (hv : v.toNat ≤ 9) (u : Bool) : (hexchar v u).toNat = 0x30 + v.toNat := by
  rw [hexchar, if_pos hv]
  exact Nat.mod_eq_of_lt (by omega)

theorem toNat_hexchar_of_ge {v : BitVec 4} (hv : 10 ≤ v.toNat) :
    (hexchar v false).toNat = 0x61 + (v.toNat - 10) ∧ (hexchar v true).toNat = 0x41 + (v.toNat - 10) := by
  have hlt : v.toNat < 16 := v.isLt
  simp only [hexchar, if_neg (Nat.not_le.2 hv), if_true, Bool.false_eq_true, if_false]
  exact ⟨Nat.mod_eq_of_lt (by omega), Nat.mod_eq_of_lt (by omega)⟩

/-- Digit `i` of `H`, cut out by a division (R152). -/
theorem hexDigit_eq (h : Hash) (i : Fin 64) :
    hexDigit h i = BitVec.ofNat 4 (h[i.val / 8].toNat / 2 ^ (28 - 4 * (i.val % 8))) := by
  rw [hexDigit, BitVec.extractLsb', Nat.shiftRight_eq_div_pow]

/-- Bits `31 − 8p : 24 − 8p` of `HEX[j]` are the character of digit `4j + p` (R153). -/
theorem extractLsb'_hexWord {j : Fin 16} {p : Fin 4} {i : Fin 64} (hi : i.val = 4 * j.val + p.val) (h : Hash)
    (u : Bool) : (hexWord h u j).extractLsb' (24 - 8 * p.val) 8 = hexCharAt h u i := by
  have hlt : 4 * j.val + p.val < 64 := by omega
  obtain rfl : i = ⟨4 * j.val + p.val, hlt⟩ := Fin.ext hi
  match p with
  | 0 => exact (BitVec.extractLsb'_append_eq_of_le (w := 16) (by decide)).trans BitVec.extractLsb'_append_eq_left
  | 1 => exact (BitVec.extractLsb'_append_eq_of_le (w := 16) (by decide)).trans BitVec.extractLsb'_append_eq_right
  | 2 => exact (BitVec.extractLsb'_append_eq_of_add_le (w := 16) (by decide)).trans BitVec.extractLsb'_append_eq_left
  | 3 => exact (BitVec.extractLsb'_append_eq_of_add_le (w := 16) (by decide)).trans BitVec.extractLsb'_append_eq_right

theorem memRead_hex (j : Fin 16) (s : State) : memRead (0x0C0 + 4 * j.val) 4 s = .ok (hexWord s.h s.cfgUpper j) :=
  memRead_offset (.hex j) s

/-- Settles O40: the codes are `hexchar`'s two ranges, and a read of `HEX[j]` is `hexWord`, whose bytes are the four
characters. -/
theorem hexRegistersSpellTheState : Obligations.HexRegistersSpellTheState := by
  unfold Obligations.HexRegistersSpellTheState
  refine ⟨fun v => ⟨toNat_hexchar_of_le, toNat_hexchar_of_ge⟩,
    fun s j p i hi => ⟨hexWord s.h s.cfgUpper j, memRead_hex j s, ?byte⟩⟩
  rw [extractLsb'_hexWord hi, hexCharAt, hexDigit_eq]

end Sys2Proof.Machine

/-! ### `NOP` and `CLRERR` (44_system.md R160, R161) -/

namespace Sys2Proof.Machine

/-- The bits of `STATUS` that `CLRERR` keeps: all but `ERR`, `MULTI` and `ERRCODE` (5, 6 and 11:8). -/
def clearErrorMask : Word := 0xFFFFF09F

/-! Each field of `STATUS`, at its place in the word (R30), under the mask. -/

theorem flagWord_and_clearErrorMask (b : Bool) :
    flagWord b &&& clearErrorMask = flagWord b ∧
    flagWord b <<< 1 &&& clearErrorMask = flagWord b <<< 1 ∧
    flagWord b <<< 2 &&& clearErrorMask = flagWord b <<< 2 ∧
    flagWord b <<< 3 &&& clearErrorMask = flagWord b <<< 3 ∧
    flagWord b <<< 4 &&& clearErrorMask = flagWord b <<< 4 ∧
    flagWord b <<< 5 &&& clearErrorMask = 0#32 ∧
    flagWord b <<< 6 &&& clearErrorMask = 0#32 := by
  cases b <;> decide

theorem errCode_and_clearErrorMask (c : ErrCode) : c.value.setWidth 32 <<< 8 &&& clearErrorMask = 0#32 := by
  cases c <;> decide

theorem round_and_clearErrorMask (r : Fin 65) :
    BitVec.ofNat 32 r.val <<< 16 &&& clearErrorMask = BitVec.ofNat 32 r.val <<< 16 := by
  revert r
  decide

theorem emptyRecord_eq_zero :
    flagWord false <<< 5 = 0#32 ∧ flagWord false <<< 6 = 0#32 ∧ ErrCode.none.value.setWidth 32 <<< 8 = 0#32 := by
  decide

/-- `CLRERR` in the word that a read of `STATUS` returns (R30): the record becomes 0, every other bit stays. -/
theorem statusWord_clearError (st : Status) : statusWord st.clearError = statusWord st &&& clearErrorMask := by
  simp [statusWord, BitVec.and_or_distrib_right, flagWord_and_clearErrorMask, errCode_and_clearErrorMask,
    round_and_clearErrorMask, emptyRecord_eq_zero]

/-- Settles O22: both commands are accepted by definition, each has one word, and `CLRERR` masks the word of
`STATUS`. -/
theorem systemCommands : Obligations.SystemCommands := by
  unfold Obligations.SystemCommands
  refine ⟨fun _ => rfl, fun _ => rfl,
    fun v s ho => command_of_exactWord (i := .nop) (by decide) ho (by decide) (by decide) s,
    fun v s ho => command_of_exactWord (by decide) ho (by decide) (by decide) s, ?vector⟩
  intro s t hs ht
  obtain rfl : clearError s = t := Host.Outcome.next.inj ht
  calc statusWord (clearError s).status
    _ = statusWord s.status &&& clearErrorMask := statusWord_clearError s.status
    _ = 0x00000560 &&& clearErrorMask := by rw [hs]
    _ = 0 := by decide

end Sys2Proof.Machine

/-! ### Illegal command words and the message that is too long (60_exceptions.md R173, R178) -/

namespace Sys2Proof.Machine

/-! The record after a rejection (R171): the first code stays, and a later one sets `MULTI`. -/

theorem reject_errCode (c : ErrCode) (s : State) :
    (reject c s).status.errCode = if s.status.err then s.status.errCode else c := by
  by_cases hc : c = .inputTooLarge
  · subst hc
    rw [reject_inputTooLarge_status, Status.closeMessage_errCode, recordError_errCode]
  · rw [reject_status c s hc, recordError_errCode]

theorem reject_multi (c : ErrCode) (s : State) :
    (reject c s).status.multi = if s.status.err then true else s.status.multi := by
  by_cases hc : c = .inputTooLarge
  · subst hc
    rw [reject_inputTooLarge_status, Status.closeMessage_multi, recordError_multi]
  · rw [reject_status c s hc, recordError_multi]

theorem errCode_of_reject_illegalCmd {c : ErrCode} (hc : c ≠ .illegalCmd) {s : State}
    (h : (reject c s).status.errCode = .illegalCmd) : s.status.errCode = .illegalCmd := by
  rw [reject_errCode] at h
  split at h
  · exact h
  · exact absurd h hc

/-- Storing a byte records no error, whether or not it completes the Block (R114). -/
theorem absorbByte_errCode (b : Byte) (s : State) : (absorbByte b s).status.errCode = s.status.errCode := by
  simp only [absorbByte]
  split
  · rw [start_status, Status.startBlock_errCode]
  · rfl

/-- `ILLEGAL_CMD` is raised by the decoder alone: no command's own checks raise it (R74 checks 3 to 7). -/
theorem errCode_of_exec_illegalCmd {i : Instr} {s t : State} (h : exec i s = .next t)
    (ht : t.status.errCode = .illegalCmd) : s.status.errCode = .illegalCmd := by
  obtain ⟨c, hc, rfl⟩ | ⟨-, -, -, -, rfl⟩ | ⟨-, x, rfl⟩ | ⟨-, rfl⟩ | ⟨-, rfl⟩ | ⟨-, -, rfl⟩ |
    ⟨b, -, -, -, -, rfl⟩ | ⟨-, -, -, rfl⟩ := exec_cases h
  · exact errCode_of_reject_illegalCmd (by rintro rfl; simp at hc) ht
  · exact errCode_of_reject_illegalCmd (by decide) ht
  · exact ht
  · exact ht
  · cases ht
  · exact ht
  · rwa [absorbByte_errCode] at ht
  · exact ht

/-- The decoder's two answers `illegal` are the two cases of R173. -/
theorem exists_decode_illegal_iff (v : Word) : (∃ why, decode v = .illegal why) ↔ illegalWord v := by
  constructor
  · rintro ⟨why, hd⟩
    by_contra hlegal
    obtain ⟨ha, hz⟩ := not_or.1 hlegal
    obtain ⟨i, hi, -⟩ := decode_of_legal (not_not.1 ha) hz
    rw [hi] at hd
    cases hd
  · intro hv
    by_cases ha : opcodeOf v ∈ assignedOpcodes
    · exact ⟨_, decode_of_nonzeroField ha (hv.resolve_left (not_not.2 ha))⟩
    · exact ⟨_, decode_of_unassigned ha⟩

/-- Settles O5: the words of R173 are those the decoder calls illegal, and a decoded command never raises
`ILLEGAL_CMD`. -/
theorem illegalWordsAreRejected : Obligations.IllegalWordsAreRejected := by
  unfold Obligations.IllegalWordsAreRejected
  constructor
  · intro v s hv
    obtain ⟨why, hd⟩ := (exists_decode_illegal_iff v).2 hv
    exact command_of_illegal hd s
  · intro v s t _ hcmd ht hs
    obtain ⟨why, hd, -⟩ | ⟨i, -, hexec⟩ := command_cases v s
    · exact (exists_decode_illegal_iff v).1 ⟨why, hd⟩
    · exact absurd (errCode_of_exec_illegalCmd (hexec ▸ hcmd) ht) hs

/-- A whole number of bytes leaves no room for one more only at the last multiple of 8 (R178). -/
theorem len_eq_of_full {len : BitVec 64} (hl : 2 ^ 64 - 1 < len.toNat + 8) (h8 : len.toNat % 8 = 0) :
    len.toNat = 2 ^ 64 - 8 := by
  have := len.isLt
  omega

/-- Settles O27: the rejection, field by field, and the two `SEQUENCE` rejections of a closed message. -/
theorem tooLongMessageIsClosed : Obligations.TooLongMessageIsClosed := by
  unfold Obligations.TooLongMessageIsClosed
  intro b s hb hm hl
  have hclosed : (reject .inputTooLarge s).status.msgOpen = false := rfl
  refine ⟨exec_absorb_inputTooLarge hb hm hl b, hclosed, reject_len s _, reject_m s _, ?first, ?later,
    len_eq_of_full hl, ?sequence⟩
  case first =>
    intro he
    obtain ⟨-, -, -, -, -, herr⟩ := reject_flags .inputTooLarge s
    exact ⟨herr, by rw [reject_errCode, he]; rfl⟩
  case later =>
    intro he
    exact ⟨by rw [reject_multi, he]; rfl, by rw [reject_errCode, he]; rfl⟩
  case sequence =>
    intro t htb htm
    rw [hclosed] at htm
    exact ⟨exec_final_sequence htb htm, exec_absorb_sequence htb htm⟩

end Sys2Proof.Machine

/-! ### The command word and back (30_encoding.md R71 to R77) -/

namespace Sys2Proof.Machine

/-! Encode, then decode. -/

theorem encodedFields (i : Instr) : Laws.EncodedFields.Statement i := by
  cases i with
  | nop => exact Laws.EncodedFields.nop
  | rotr n => exact Laws.EncodedFields.rotr n
  | shr n => exact Laws.EncodedFields.shr n
  | add n => exact Laws.EncodedFields.add n
  | ch => exact Laws.EncodedFields.ch
  | maj => exact Laws.EncodedFields.maj
  | bsig0 => exact Laws.EncodedFields.bsig0
  | bsig1 => exact Laws.EncodedFields.bsig1
  | ssig0 => exact Laws.EncodedFields.ssig0
  | ssig1 => exact Laws.EncodedFields.ssig1
  | init => exact Laws.EncodedFields.init
  | absorb b => exact Laws.EncodedFields.absorb b
  | final => exact Laws.EncodedFields.final
  | clrerr => exact Laws.EncodedFields.clrerr

/-- An operand that fits its field is read back from it (R77). -/
theorem toNat_ofNat_n6 {n : Nat} (hn : n < 64) : (BitVec.ofNat 6 n).toNat = n := Nat.mod_eq_of_lt hn

/-- The opcode and the operand fields of a well-formed command's word select the command. -/
theorem commandOf_encode {i : Instr} (hi : i.wellFormed = true) :
    commandOf i.opcode (immField (encode i)) (n6Field (encode i)) = some i := by
  cases i with
  | rotr n => simp [commandOf, encode, Instr.opcode, toNat_ofNat_n6 (of_decide_eq_true hi)]
  | shr n => simp [commandOf, encode, Instr.opcode, toNat_ofNat_n6 (of_decide_eq_true hi)]
  | add n => simp [commandOf, encode, Instr.opcode, toNat_ofNat_n6 (of_decide_eq_true hi)]
  | absorb b => simp [commandOf, encode, Instr.opcode]
  | _ => rfl

/-- The decoder answers exactly the commands that pass both of its checks. -/
theorem decode_eq_command_iff {v : Word} {i : Instr} : decode v = .command i ↔
    commandOf (opcField v) (immField v) (n6Field v) = some i ∧ rsvField v = 0 ∧
    (immField v = 0 ∨ usesImm i = true) ∧ (n6Field v = 0 ∨ usesN6 i = true) := by
  refine ⟨decode_eq_command, fun ⟨hi, hrsv, himm, hn⟩ => ?_⟩
  have hpass : ¬ (rsvField v ≠ 0 ∨ (immField v ≠ 0 ∧ usesImm i = false) ∨ (n6Field v ≠ 0 ∧ usesN6 i = false)) := by
    simp only [← Bool.not_eq_true]
    tauto
  simp only [decode, hi, if_neg hpass]

theorem decode_encode {i : Instr} (hi : i.wellFormed = true) : decode (encode i) = .command i := by
  obtain ⟨hopc, hrsv, himm, hn⟩ := encodedFields i
  rw [decode_eq_command_iff, hopc]
  refine ⟨commandOf_encode hi, hrsv, ?_, ?_⟩
  · cases h : usesImm i <;> simp [himm, h]
  · cases h : usesN6 i <;> simp [hn, h]

/-- Settles O2: each field of the encoded word holds what the decoder reads from it. -/
theorem decodeOfEncodeIsTheCommand : Obligations.DecodeOfEncodeIsTheCommand := by
  unfold Obligations.DecodeOfEncodeIsTheCommand
  exact fun _ => decode_encode

/-! Decode, then encode. -/

theorem wellFormed_of_commandOf {opc imm : BitVec 8} {n : BitVec 6} {i : Instr} (h : commandOf opc imm n = some i) :
    i.wellFormed = true := by
  have hn : n.toNat < 64 := n.isLt
  obtain ⟨-, rfl | rfl | rfl | rfl | rfl | rfl | rfl | rfl | rfl | rfl | rfl | rfl | rfl | rfl⟩ := commandOf_eq_some h <;>
    simp [Instr.wellFormed, hn]

/-- A command selected by fields that are 0 where it does not use them is encoded as those fields. -/
theorem encode_of_commandOf {opc imm : BitVec 8} {n : BitVec 6} {i : Instr} (h : commandOf opc imm n = some i)
    (himm : imm = 0 ∨ usesImm i = true) (hn : n = 0 ∨ usesN6 i = true) : encode i = cmd32 n imm opc := by
  obtain ⟨rfl, rfl | rfl | rfl | rfl | rfl | rfl | rfl | rfl | rfl | rfl | rfl | rfl | rfl | rfl⟩ := commandOf_eq_some h <;>
    simp_all [encode, usesImm, usesN6]

/-- Settles O3: a decoded word has `RSV` 0, so it is its other three fields, and these are what `encode` writes. -/
theorem encodeOfDecodeIsTheWord : Obligations.EncodeOfDecodeIsTheWord := by
  unfold Obligations.EncodeOfDecodeIsTheWord
  intro v i h
  obtain ⟨hi, hrsv, himm, hn⟩ := decode_eq_command h
  exact ⟨wellFormed_of_commandOf hi, by rw [encode_of_commandOf hi himm hn, cmd32_fields v hrsv]⟩

/-! The rows of the opcode map (R73). -/

/-- A word is its four fields. -/
theorem word_ext_fields {v w : Word} (hrsv : rsvField v = rsvField w) (hn : n6Field v = n6Field w)
    (himm : immField v = immField w) (hopc : opcField v = opcField w) : v = w := by
  rw [← BitVec.toNat_inj] at hrsv hn himm hopc ⊢
  simp only [rsvField_toNat, n6Field_toNat, immField_toNat, opcField_toNat, reservedOf, amountOf, immOf, opcodeOf] at *
  omega

/-- The opcode of a row of the map. -/
def rowOpcode (r : Fin 14) : BitVec 8 := opcField (opcodeRows[r]).1

theorem rowOpcode_row (i : Instr) : rowOpcode i.row = i.opcode := by
  cases i <;> rfl

theorem rowOpcode_injective {r r' : Fin 14} (h : rowOpcode r = rowOpcode r') : r = r' := by
  revert r r'
  decide

theorem rowOpcode_assigned (r : Fin 14) : (rowOpcode r).toNat ∈ assignedOpcodes := by
  revert r
  decide

theorem usesImm_iff_row (i : Instr) : usesImm i = true ↔ i.row = 11 := by
  cases i <;> simp [usesImm, Instr.row]

theorem usesN6_iff_row (i : Instr) : usesN6 i = true ↔ i.row ∈ [1, 2, 3] := by
  cases i <;> simp [usesN6, Instr.row]

/-- The mask compares field by field. -/
theorem and_eq_iff_fields (v mask m : Word) : v &&& mask = m ↔
    rsvField v &&& rsvField mask = rsvField m ∧ n6Field v &&& n6Field mask = n6Field m ∧
    immField v &&& immField mask = immField m ∧ opcField v &&& opcField mask = opcField m := by
  have fields : rsvField (v &&& mask) = rsvField v &&& rsvField mask ∧
      n6Field (v &&& mask) = n6Field v &&& n6Field mask ∧
      immField (v &&& mask) = immField v &&& immField mask ∧
      opcField (v &&& mask) = opcField v &&& opcField mask := by
    simp only [rsvField, n6Field, immField, opcField, BitVec.extractLsb'_and, and_self]
  obtain ⟨hrsv, hn, himm, hopc⟩ := fields
  rw [← hrsv, ← hn, ← himm, ← hopc]
  exact ⟨by rintro rfl; simp, fun ⟨h1, h2, h3, h4⟩ => word_ext_fields h1 h2 h3 h4⟩

/-- The masks of R73: every row fixes `RSV` and `OPC`, and the operand fields its command does not use. -/
theorem row_fields (r : Fin 14) :
    (rsvField (opcodeRows[r]).2 = BitVec.allOnes 10 ∧ rsvField (opcodeRows[r]).1 = 0) ∧
    (n6Field (opcodeRows[r]).2 = (if r ∈ [1, 2, 3] then 0 else BitVec.allOnes 6) ∧ n6Field (opcodeRows[r]).1 = 0) ∧
    (immField (opcodeRows[r]).2 = (if r = 11 then 0 else BitVec.allOnes 8) ∧ immField (opcodeRows[r]).1 = 0) ∧
    opcField (opcodeRows[r]).2 = BitVec.allOnes 8 := by
  revert r
  decide

/-- A mask compares a whole field with 0, or nothing of it. -/
theorem and_fieldMask_eq_zero {w : Nat} (x : BitVec w) (p : Prop) [Decidable p] :
    (x &&& if p then 0 else BitVec.allOnes w) = 0 ↔ x = 0 ∨ p := by
  by_cases h : p <;> simp only [h, if_true, if_false, BitVec.and_allOnes, or_true, or_false, iff_true]
  exact BitVec.and_zero

theorem selectsRow_iff (v : Word) (r : Fin 14) : selectsRow v r = true ↔
    rsvField v = 0 ∧ (n6Field v = 0 ∨ r ∈ [1, 2, 3]) ∧ (immField v = 0 ∨ r = 11) ∧ opcField v = rowOpcode r := by
  obtain ⟨⟨hrsv, hrsv'⟩, ⟨hn, hn'⟩, ⟨himm, himm'⟩, hopc⟩ := row_fields r
  rw [selectsRow, beq_iff_eq, and_eq_iff_fields, hrsv, hrsv', hn, hn', himm, himm', hopc, rowOpcode]
  simp only [and_fieldMask_eq_zero, BitVec.and_allOnes]

/-- Settles O4: the row fixes the opcode and the fields that must be 0, and so does the decoder. -/
theorem rowMatchesExactlyItsCommand : Obligations.RowMatchesExactlyItsCommand := by
  unfold Obligations.RowMatchesExactlyItsCommand
  intro v r
  rw [selectsRow_iff]
  constructor
  · rintro ⟨hrsv, hn, himm, hopc⟩
    obtain ⟨i, hi⟩ := (commandOf_isSome (opcField v) (immField v) (n6Field v)).2 (hopc ▸ rowOpcode_assigned r)
    obtain ⟨ho, -⟩ := commandOf_eq_some hi
    obtain rfl : i.row = r := rowOpcode_injective (by rw [rowOpcode_row, ho, hopc])
    exact ⟨i, decode_eq_command_iff.2 ⟨hi, hrsv, himm.imp_right (usesImm_iff_row i).2,
      hn.imp_right (usesN6_iff_row i).2⟩, rfl⟩
  · rintro ⟨i, hd, rfl⟩
    obtain ⟨hi, hrsv, himm, hn⟩ := decode_eq_command hd
    obtain ⟨ho, -⟩ := commandOf_eq_some hi
    exact ⟨hrsv, hn.imp_right (usesN6_iff_row i).1, himm.imp_right (usesImm_iff_row i).1,
      by rw [rowOpcode_row, ho]⟩

/-- Settles O1: the words are literals, and the decoder is run on each. -/
theorem writtenWordsDecode : Obligations.WrittenWordsDecode := by
  unfold Obligations.WrittenWordsDecode
  decide

end Sys2Proof.Machine

/-! ### The 65 steps of a Block (42_compressor.md R130 to R138) -/

namespace Sys2Proof.Machine

/-! Several engine steps. -/

theorem engineSteps_succ (k : Nat) (s : State) : engineSteps (k + 1) s = engineStep (engineSteps k s) := by
  induction k generalizing s with
  | zero => rfl
  | succ k ih => exact ih (engineStep s)

/-- A fold over the round numbers, one round at a time. -/
theorem foldl_take_finRange_succ {α : Type} (f : α → Fin 64 → α) (a : α) (t : Fin 64) :
    ((List.finRange 64).take (t.val + 1)).foldl f a = f (((List.finRange 64).take t.val).foldl f a) t := by
  simp [List.take_add_one, List.foldl_append]

theorem take_finRange_all : (List.finRange 64).take 64 = List.finRange 64 :=
  List.take_of_length_le (by rw [List.length_finRange])

/-! The schedule, entry by entry: round `t` writes entry `t` alone, from entries below it. -/

/-- The schedule `w` after rounds `0 .. k−1`. -/
def schedulePrefix (w : Schedule) (k : Nat) : Schedule := ((List.finRange 64).take k).foldl extendSchedule w

theorem schedulePrefix_succ (w : Schedule) (t : Fin 64) :
    schedulePrefix w (t.val + 1) = extendSchedule (schedulePrefix w t.val) t := foldl_take_finRange_succ _ _ t

theorem extendSchedule_getElem_of_ne {t : Fin 64} {i : Nat} (hi : i < 64) (hne : i ≠ t.val) (w : Schedule) :
    (extendSchedule w t)[i] = w[i] := by
  unfold extendSchedule
  split
  · exact Vector.getElem_set_ne _ _ (Ne.symm hne)
  · rfl

/-- An entry is final after its own round. -/
theorem schedulePrefix_getElem_of_lt (w : Schedule) {t k : Nat} (htk : t < k) (hk : k ≤ 64) :
    (schedulePrefix w k)[t] = (schedulePrefix w (t + 1))[t] := by
  induction k, htk using Nat.le_induction with
  | base => rfl
  | succ k htk ih =>
    rw [schedulePrefix_succ w ⟨k, hk⟩, extendSchedule_getElem_of_ne _ (Nat.ne_of_lt htk), ih (by omega)]

theorem scheduleWord_congr {w w' : Schedule} {t : Fin 64} (ht : 16 ≤ t.val)
    (h : ∀ i (hi : i < t.val), w[i] = w'[i]) : scheduleWord w t = scheduleWord w' t := by
  unfold scheduleWord
  rw [h (t.val - 2) (by omega), h (t.val - 7) (by omega), h (t.val - 15) (by omega), h (t.val - 16) (by omega)]

/-- Only the first 16 entries of the starting schedule count (R132): the entries that are stale at the `Start()` are
written before they are read. -/
theorem schedulePrefix_congr {w w' : Schedule} (h : ∀ i (hi : i < 16), w[i] = w'[i]) {k : Nat} (hk : k ≤ 64) :
    ∀ i (hi : i < 64), i < 16 ∨ i < k → (schedulePrefix w k)[i] = (schedulePrefix w' k)[i] := by
  induction k with
  | zero => exact fun i _ hlow => h i (by omega)
  | succ k ih =>
    intro i hi hlow
    rw [schedulePrefix_succ w ⟨k, hk⟩, schedulePrefix_succ w' ⟨k, hk⟩]
    by_cases hik : i = k
    · subst hik
      by_cases h16 : 16 ≤ i
      · simp only [extendSchedule_of_le (t := ⟨i, hi⟩) h16, Vector.getElem_set_self]
        exact scheduleWord_congr h16 fun j hj => ih (by omega) j (by omega) (.inr hj)
      · have hlt : i < 16 := by omega
        simp only [extendSchedule_of_lt (t := ⟨i, hi⟩) hlt]
        exact ih (by omega) i hi (.inl hlt)
    · simp only [extendSchedule_getElem_of_ne (t := ⟨k, hk⟩) hi hik]
      exact ih (by omega) i hi (by omega)

/-- Round `t` after a `Start()` reads the entry that the whole schedule of the Block has (R138). -/
theorem schedulePrefix_start_getElem (s : State) (t : Fin 64) :
    (schedulePrefix (start s).w (t.val + 1))[t.val] = (scheduleOf s.m)[t.val] := by
  have hwhole : scheduleOf s.m =
      schedulePrefix (Vector.ofFn fun t => if ht : t.val < 16 then s.m[t.val] else 0) 64 := by
    rw [schedulePrefix, take_finRange_all, scheduleOf]
  rw [hwhole, ← schedulePrefix_getElem_of_lt (start s).w t.isLt (Nat.le_refl 64)]
  refine schedulePrefix_congr (fun i hi => ?_) (Nat.le_refl 64) t.val t.isLt (.inr t.isLt)
  rw [start_w_low s i hi]
  simp [hi]

/-! The rounds after a `Start()`. -/

/-- The working variables after rounds `0 .. k−1` of the Block `x` from `h`. -/
def roundsPrefix (h : Hash) (x : Block) (k : Nat) : Hash :=
  ((List.finRange 64).take k).foldl (fun v t => roundVars v kRom[t] (scheduleOf x)[t]) h

theorem roundsPrefix_succ (h : Hash) (x : Block) (t : Fin 64) :
    roundsPrefix h x (t.val + 1) = roundVars (roundsPrefix h x t.val) kRom[t] (scheduleOf x)[t] :=
  foldl_take_finRange_succ _ _ t

theorem compress_eq (h : Hash) (x : Block) : compress h x = addHash h (roundsPrefix h x 64) := by
  rw [compress, roundsPrefix, take_finRange_all]

/-- The state after `Start()` on `s` and `k` rounds: the loop invariant of the 64 round steps. -/
def afterRounds (s : State) (k : Fin 65) : State :=
  { start s with
    w := schedulePrefix (start s).w k.val
    wv := roundsPrefix s.h s.m k.val
    status := { (start s).status with round := k } }

theorem roundStep_afterRounds (s : State) (t : Fin 64) :
    roundStep t (afterRounds s t.castSucc) = afterRounds s t.succ := by
  have hw : extendSchedule (schedulePrefix (start s).w t.val) t = schedulePrefix (start s).w (t.val + 1) :=
    (schedulePrefix_succ _ t).symm
  have hv : roundVars (roundsPrefix s.h s.m t.val) kRom[t] (schedulePrefix (start s).w (t.val + 1))[t] =
      roundsPrefix s.h s.m (t.val + 1) := by
    rw [roundsPrefix_succ]
    exact congrArg _ (schedulePrefix_start_getElem s t)
  simp only [roundStep, afterRounds, Fin.val_castSucc, Fin.val_succ, hw, hv]

theorem engineSteps_start (s : State) {k : Nat} (hk : k < 65) : engineSteps k (start s) = afterRounds s ⟨k, hk⟩ := by
  induction k with
  | zero => rfl
  | succ k ih =>
    have hlt : k < 64 := by omega
    rw [engineSteps_succ, ih (by omega), engineStep_of_castSucc (t := ⟨k, hlt⟩) rfl]
    exact roundStep_afterRounds s ⟨k, hlt⟩

/-- The 65 steps of a Block end with the feed-forward of the 64 rounds. -/
theorem engineSteps_sixtyFive_start (s : State) : engineSteps 65 (start s) = feedForward (afterRounds s 64) := by
  rw [engineSteps_succ, engineSteps_start s (by decide), engineStep_of_sixtyFour rfl]
  rfl

theorem engineSteps_sixtyFive_start_h (s : State) : (engineSteps 65 (start s)).h = compress s.h s.m := by
  rw [engineSteps_sixtyFive_start, feedForward_h, compress_eq]
  rfl

/-- Settles O35: the round steps keep the invariant `afterRounds`, which leaves `H` alone, and the feed-forward of the
last one is `Compress`. -/
theorem sixtyFiveStepsCompressTheBlock : Obligations.SixtyFiveStepsCompressTheBlock := by
  unfold Obligations.SixtyFiveStepsCompressTheBlock
  refine fun s => ⟨engineSteps_sixtyFive_start_h s, fun k hk => ?_⟩
  rw [engineSteps_start s hk]
  rfl

end Sys2Proof.Machine

/-! ### The engine's work, and the end of every WAIT (42_compressor.md R137, R140, 30_encoding.md R78) -/

namespace Sys2Proof.Machine

/-! Runs of the machine. -/

theorem Reaches.refl (s : State) : Reaches 0 s s := rfl

theorem Reaches.head {n : Nat} {s t u : State} (h : step s = .next t) (h' : Reaches n t u) : Reaches (n + 1) s u := by
  have hrun : Sys2Proof.core.run (n + 1) s = Sys2Proof.core.run n t := by
    simp only [Host.Core.run, Sys2Proof.core, h]
  exact hrun.trans h'

theorem Reaches.trans {n m : Nat} {s t u : State} (h : Reaches n s t) (h' : Reaches m t u) : Reaches (n + m) s u := by
  induction n generalizing s with
  | zero =>
    obtain rfl := Host.Outcome.next.inj h
    rwa [Nat.zero_add]
  | succ n ih =>
    cases hs : step s with
    | next v =>
      have hv : Reaches n v t := by simpa only [Reaches, Host.Core.run, Sys2Proof.core, hs] using h
      rw [Nat.succ_add]
      exact .head hs (ih hv)
    | fault r => simp only [Reaches, Host.Core.run, Sys2Proof.core, hs, reduceCtorEq] at h
    | refused r => simp only [Reaches, Host.Core.run, Sys2Proof.core, hs, reduceCtorEq] at h

theorem Reaches.one {s t : State} (h : step s = .next t) : Reaches 1 s t := .head h (.refl t)

/-! The engine looks at the core alone. -/

theorem SameCore.refl (s : State) : SameCore s s := by constructor <;> rfl

theorem SameCore.symm {s t : State} (h : SameCore s t) : SameCore t s := by
  obtain ⟨op, result, m, len, hh, wv, w, status, cfg⟩ := h
  exact ⟨op.symm, result.symm, m.symm, len.symm, hh.symm, wv.symm, w.symm, status.symm, cfg.symm⟩

theorem roundStep_sameCore {s t : State} (h : SameCore s t) (r : Fin 64) : SameCore (roundStep r s) (roundStep r t) := by
  obtain ⟨op, result, m, len, hh, wv, w, status, cfg⟩ := h
  constructor <;> simp [roundStep, *]

theorem start_sameCore {s t : State} (h : SameCore s t) : SameCore (start s) (start t) := by
  obtain ⟨op, result, m, len, hh, wv, w, status, cfg⟩ := h
  constructor <;> simp [start, *]

theorem feedForward_sameCore {s t : State} (h : SameCore s t) : SameCore (feedForward s) (feedForward t) := by
  have hcore := h
  obtain ⟨op, result, m, len, hh, wv, w, status, cfg⟩ := hcore
  by_cases hp : s.status.pend2 = true
  · rw [feedForward_of_pend2 hp, feedForward_of_pend2 (status ▸ hp)]
    refine start_sameCore ?_
    constructor <;> simp [*]
  · rw [Bool.not_eq_true] at hp
    rw [feedForward_of_not_pend2 hp, feedForward_of_not_pend2 (status ▸ hp)]
    constructor <;> simp [*]

theorem engineStep_sameCore {s t : State} (h : SameCore s t) : SameCore (engineStep s) (engineStep t) := by
  obtain ⟨r, hr, e⟩ | ⟨hr, e⟩ := engineStep_cases s
  · rw [e, engineStep_of_castSucc (h.status ▸ hr)]
    exact roundStep_sameCore h r
  · rw [e, engineStep_of_sixtyFour (h.status ▸ hr)]
    exact feedForward_sameCore h

theorem engineSteps_sameCore {s t : State} (h : SameCore s t) (k : Nat) :
    SameCore (engineSteps k s) (engineSteps k t) := by
  induction k generalizing s t with
  | zero => exact h
  | succ k ih => exact ih (engineStep_sameCore h)

/-! How many engine steps are left: the rest of the Block in work, and 65 more for a length-only Block. -/

/-- The engine steps until `BUSY = 0` (R137). -/
def workLeft (s : State) : Nat :=
  if s.status.busy then 65 - s.status.round.val + (if s.status.pend2 then 65 else 0) else 0

/-- The state in which the engine comes to rest. -/
def drain (s : State) : State := engineSteps (workLeft s) s

theorem workLeft_le (s : State) : workLeft s ≤ 130 := by
  unfold workLeft
  split <;> (try split) <;> omega

theorem workLeft_eq_zero_iff (s : State) : workLeft s = 0 ↔ s.status.busy = false := by
  have := s.status.round.isLt
  cases hb : s.status.busy
  · simp [workLeft, hb]
  · simp only [workLeft, hb, if_true, reduceCtorEq, iff_false]
    omega

theorem busy_of_workLeft_pos {s : State} (h : 0 < workLeft s) : s.status.busy = true := by
  rw [← Bool.not_eq_false, ← workLeft_eq_zero_iff]
  omega

theorem workLeft_start (s : State) : workLeft (start s) = if s.status.pend2 then 130 else 65 := by
  cases hp : s.status.pend2 <;> simp [workLeft, hp]

theorem workLeft_sameCore {s t : State} (h : SameCore s t) : workLeft s = workLeft t := by
  simp only [workLeft, h.status]

/-- Each engine step takes one from the work left. -/
theorem workLeft_engineStep {s : State} (hb : s.status.busy = true) : workLeft (engineStep s) + 1 = workLeft s := by
  obtain ⟨r, hr, e⟩ | ⟨hr, e⟩ := engineStep_cases s
  · have hlt := r.isLt
    simp only [e, workLeft, roundStep_status_busy, roundStep_status_pend2, roundStep_status_round, hb, hr, if_true,
      Fin.val_succ, Fin.val_castSucc]
    omega
  · cases hp : s.status.pend2 <;> simp [e, workLeft, hb, hp, hr]

theorem drain_of_idle {s : State} (hb : s.status.busy = false) : drain s = s := by
  rw [drain, (workLeft_eq_zero_iff s).2 hb]
  rfl

theorem drain_engineStep {s : State} (hb : s.status.busy = true) : drain (engineStep s) = drain s := by
  rw [drain, drain, ← workLeft_engineStep hb]
  rfl

/-- What holds of every idle state to which the engine's steps lead holds of the drained state: the induction over the
work left, packaged. -/
theorem drain_induction {P : State → State → Prop} (idle : ∀ s, s.status.busy = false → P s s)
    (busy : ∀ s t, s.status.busy = true → P (engineStep s) t → P s t) (s : State) : P s (drain s) := by
  generalize hn : workLeft s = n
  induction n generalizing s with
  | zero =>
    have hb := (workLeft_eq_zero_iff s).1 hn
    rw [drain_of_idle hb]
    exact idle s hb
  | succ n ih =>
    have hb : s.status.busy = true := busy_of_workLeft_pos (by omega)
    have hwork := workLeft_engineStep hb
    rw [← drain_engineStep hb]
    exact busy s _ hb (ih _ (by omega))

theorem drain_busy (s : State) : (drain s).status.busy = false :=
  drain_induction (P := fun _ t => t.status.busy = false) (fun _ hb => hb) (fun _ _ _ h => h) s

/-! The poll of a WAIT: `STATUS` bit 0 is `BUSY` (10_state.md R30). -/

theorem statusWord_and_one (st : Status) : statusWord st &&& 1#32 = flagWord st.busy := by
  have hround : ∀ r : Fin 65, BitVec.ofNat 32 r.val <<< 16 &&& 1#32 = 0#32 := by decide
  have hflag : ∀ b, flagWord b &&& 1#32 = flagWord b ∧ flagWord b <<< 1 &&& 1#32 = 0#32 ∧
      flagWord b <<< 2 &&& 1#32 = 0#32 ∧ flagWord b <<< 3 &&& 1#32 = 0#32 ∧ flagWord b <<< 4 &&& 1#32 = 0#32 ∧
      flagWord b <<< 5 &&& 1#32 = 0#32 ∧ flagWord b <<< 6 &&& 1#32 = 0#32 := by decide
  have hcode : ∀ c : ErrCode, c.value.setWidth 32 <<< 8 &&& 1#32 = 0#32 := by rintro ⟨⟩ <;> decide
  simp [statusWord, BitVec.and_or_distrib_right, hround, hflag, hcode]

theorem waitStmt_eq_poll : waitStmt = .poll Reg.status.offset (.lit 1) (.lit 0) := rfl

theorem hostStep_wait (s : State) : hostStep waitStmt s =
    if s.status.busy then .next { s with prog := waitStmt :: s.prog } else .next s := by
  rw [waitStmt_eq_poll]
  simp only [hostStep, Config.busBytes, memRead_offset, valueOf_lit, readReg, BitVec.ofNat_eq_ofNat,
    statusWord_and_one]
  cases s.status.busy <;> simp [flagWord]

theorem engineTurn_of_busy {s : State} (hb : s.status.busy = true) (hp : s.prog ≠ []) :
    engineTurn s = decide (s.slack = 0) := by
  cases h : s.prog with
  | nil => exact absurd h hp
  | cons stmt rest => simp [engineTurn, hb, h, beq_eq_decide]

/-- While the engine is busy a WAIT only uses up one of the host's steps. -/
theorem step_wait_busy {s : State} {rest : List HostStmt} (hp : s.prog = waitStmt :: rest)
    (hb : s.status.busy = true) (hs : s.slack ≠ 0) : step s = .next { s with slack := s.slack - 1 } := by
  have hturn : engineTurn s = false := by simp [engineTurn_of_busy hb, hp, hs]
  rw [step_host ⟨hp, hturn⟩, hostMove, hostStep_wait, takeStmt_status, hb]
  simp [mapNext, armEngine, hb, takeStmt, hp]

theorem step_wait_idle {s : State} {rest : List HostStmt} (hp : s.prog = waitStmt :: rest)
    (hb : s.status.busy = false) : step s = .next { s with prog := rest } := by
  rw [step_host (hostNext_of_idle hb hp), hostMove, hostStep_wait, takeStmt_status, hb]
  simp [mapNext, armEngine, hb, takeStmt]

/-! The host's own fields, which an engine step leaves alone. -/

/-- The two states agree on what the host has still to do, has read, bound and checked. -/
structure SameHost (s t : State) : Prop where
  prog : s.prog = t.prog
  reads : s.reads = t.reads
  vars : s.vars = t.vars
  checks : s.checks = t.checks

theorem SameHost.trans {s t u : State} (h : SameHost s t) (h' : SameHost t u) : SameHost s u :=
  ⟨h.prog.trans h'.prog, h.reads.trans h'.reads, h.vars.trans h'.vars, h.checks.trans h'.checks⟩

theorem engineStep_sameHost (s : State) : SameHost (engineStep s) s := by
  obtain ⟨t, -, e⟩ | ⟨-, e⟩ := engineStep_cases s <;> rw [e] <;> constructor <;> simp

theorem drawSlack_sameHost (s : State) : SameHost (drawSlack s) s := by constructor <;> simp

theorem engineMove_sameHost (s : State) : SameHost (engineMove s) s :=
  (drawSlack_sameHost _).trans (engineStep_sameHost s)

theorem engineMove_sameCore (s : State) : SameCore (engineMove s) (engineStep s) := drawSlack_sameCore _

theorem drain_sameCore {s t : State} (h : SameCore s t) : SameCore (drain s) (drain t) := by
  rw [drain, drain, workLeft_sameCore h]
  exact engineSteps_sameCore h _

/-- While the engine is busy a WAIT goes on to its next step: the host has only finitely many repeats before it. -/
theorem wait_reaches_engineStep {s : State} {rest : List HostStmt} (hp : s.prog = waitStmt :: rest)
    (hb : s.status.busy = true) : ∃ n t, Reaches n s t ∧ SameCore t (engineStep s) ∧ SameHost t s := by
  generalize hl : s.slack = l
  induction l generalizing s with
  | zero =>
    have hturn : engineTurn s = true := by simp [engineTurn_of_busy hb, hp, hl]
    exact ⟨1, _, .one (step_engine hturn), engineMove_sameCore s, engineMove_sameHost s⟩
  | succ l ih =>
    have hcore : SameCore { s with slack := s.slack - 1 } s := by constructor <;> rfl
    obtain ⟨n, t, hr, hc, hh⟩ := ih (s := { s with slack := s.slack - 1 }) hp hb (by simp [hl])
    exact ⟨n + 1, t, .head (step_wait_busy hp hb (by omega)) hr, hc.trans (engineStep_sameCore hcore),
      hh.trans ⟨rfl, rfl, rfl, rfl⟩⟩

/-- A WAIT ends, whatever the interleaving, with the core drained. -/
theorem wait_reaches {s : State} {rest : List HostStmt} (hp : s.prog = waitStmt :: rest) :
    ∃ n t, Reaches n s t ∧ SameCore t (drain s) ∧ SameHost t { s with prog := rest } := by
  generalize hw : workLeft s = w
  induction w generalizing s with
  | zero =>
    have hb := (workLeft_eq_zero_iff s).1 hw
    refine ⟨1, _, .one (step_wait_idle hp hb), ?_, ⟨rfl, rfl, rfl, rfl⟩⟩
    rw [drain_of_idle hb]
    constructor <;> rfl
  | succ w ih =>
    have hb : s.status.busy = true := busy_of_workLeft_pos (by omega)
    obtain ⟨n, u, hru, hcu, hhu⟩ := wait_reaches_engineStep hp hb
    have hwork : workLeft u = w := by
      have := workLeft_engineStep hb
      rw [workLeft_sameCore hcu]
      omega
    obtain ⟨m, t, hrt, hct, hht⟩ := ih (hhu.prog.trans hp) hwork
    refine ⟨n + m, t, hru.trans hrt, ?_, hht.trans ⟨rfl, hhu.reads, hhu.vars, hhu.checks⟩⟩
    rw [← drain_engineStep hb]
    exact hct.trans (drain_sameCore hcu)

/-- Settles O37: the work left falls with each engine step, and between two of them the host's finitely many repeats
of the poll change nothing in the core. -/
theorem waitEnds : Obligations.WaitEnds := by
  unfold Obligations.WaitEnds
  intro s rest hp
  obtain ⟨n, t, hr, hc, hprog, hreads, hvars, hchecks⟩ := wait_reaches hp
  exact ⟨n, workLeft s, t, workLeft_le s, hr, hprog, by rw [hc.status, drain_busy], hreads, hvars, hchecks, hc⟩

end Sys2Proof.Machine

/-! ### The invariants (10_state.md R42, 60_exceptions.md R172, R179) -/

namespace Sys2Proof.Machine

/-! The invariants speak of the core alone. -/

theorem Inv.of_sameCore {s t : State} (h : SameCore t s) (hi : Inv s) : Inv t := by
  obtain ⟨pend2, finalPend, done, msgOpen, round, len, err⟩ := hi
  rw [← h.status] at pend2 finalPend done msgOpen round err
  rw [← h.len] at len
  exact ⟨pend2, finalPend, done, msgOpen, round, len, err⟩

theorem CodeInv.of_status {s t : State} (herr : t.status.err = s.status.err)
    (hcode : t.status.errCode = s.status.errCode) (hi : CodeInv s) : CodeInv t := by
  obtain ⟨neverMalformed, recorded⟩ := hi
  rw [← hcode] at neverMalformed recorded
  rw [← herr] at recorded
  exact ⟨neverMalformed, recorded⟩

theorem CodeInv.of_sameCore {s t : State} (h : SameCore t s) (hi : CodeInv s) : CodeInv t :=
  hi.of_status (by rw [h.status]) (by rw [h.status])

theorem inv_reset : Inv State.reset := by
  constructor <;> decide

theorem codeInv_reset : CodeInv State.reset := by
  constructor <;> decide

/-- Settles O57: the reset state is a literal. -/
theorem resetMeetsTheInvariants : Obligations.ResetMeetsTheInvariants := by
  unfold Obligations.ResetMeetsTheInvariants
  exact ⟨inv_reset, codeInv_reset⟩

/-! Rejections. -/

/-- A rejection closes the message or leaves it as it is. -/
theorem msgOpen_of_reject {c : ErrCode} {s : State} (h : (reject c s).status.msgOpen = true) :
    s.status.msgOpen = true := by
  by_cases hc : c = .inputTooLarge
  · subst hc; cases h
  · rwa [reject_status c s hc, Status.recordError_msgOpen] at h

theorem reject_inv (c : ErrCode) {s : State} (hi : Inv s) : Inv (reject c s) := by
  obtain ⟨hbusy, hdone, hpend2, hfinalPend, hround, herr⟩ := reject_flags c s
  obtain ⟨pend2, finalPend, done, msgOpen, round, len, -⟩ := hi
  constructor
  case pend2 => rwa [hpend2, hbusy, hfinalPend]
  case finalPend => rwa [hfinalPend, hbusy]
  case done =>
    rw [hdone, hbusy]
    intro hd
    exact ⟨(done hd).1, Bool.eq_false_iff.2 fun ho =>
      Bool.false_ne_true ((done hd).2.symm.trans (msgOpen_of_reject ho))⟩
  case msgOpen =>
    rw [hdone, hfinalPend]
    exact fun ho => msgOpen (msgOpen_of_reject ho)
  case round => rwa [hround]
  case len => rwa [reject_len]
  case err => simp [herr]

/-! The engine. -/

theorem engineStep_inv {s : State} (hb : s.status.busy = true) (hi : Inv s) : Inv (engineStep s) := by
  obtain ⟨pend2, finalPend, done, msgOpen, round, len, err⟩ := hi
  have hdone : s.status.done = false := by simpa [hb] using done
  obtain ⟨t, -, e⟩ | ⟨-, e⟩ := engineStep_cases s
  · rw [e]
    exact ⟨pend2, finalPend, done, msgOpen, Nat.le_of_lt_succ t.succ.isLt, len, err⟩
  · rw [e]
    cases hp : s.status.pend2 with
    | true =>
      rw [feedForward_of_pend2 hp]
      exact ⟨by simp, fun _ => rfl, by simp [hdone], msgOpen, by simp, len, err⟩
    | false =>
      rw [feedForward_of_not_pend2 hp]
      cases hf : s.status.finalPend with
      | true =>
        have hclosed : s.status.msgOpen = false := by simpa [hf] using msgOpen
        rw [Status.finishBlock_of_finalPend hf]
        exact ⟨by simp [hp], by simp, by simp [hclosed], by simp [hclosed], round, len, err⟩
      | false =>
        rw [Status.finishBlock_of_not_finalPend hf]
        exact ⟨by simp [hp], by simp [hf], by simp [hdone], by simp [hdone, hf], round, len, err⟩

/-! The commands. -/

theorem absorbByte_status (b : Byte) (s : State) : (absorbByte b s).status =
    if s.len.toNat / 8 % 64 = 63 then s.status.startBlock else s.status := by
  by_cases h : s.len.toNat / 8 % 64 = 63
  · rw [absorbByte_of_eq (k := 63) h.symm rfl, if_pos h]
    rfl
  · rw [absorbByte_of_ne (k := bytePos s.len) (bytePos_val _) (by rwa [bytePos_val]), if_neg h]

theorem setResult_inv (x : Word) {s : State} (hi : Inv s) : Inv (setResult x s) := by
  obtain ⟨pend2, finalPend, done, msgOpen, round, len, err⟩ := hi
  exact ⟨pend2, finalPend, done, msgOpen, round, len, err⟩

theorem clearError_inv {s : State} (hi : Inv s) : Inv (clearError s) := by
  obtain ⟨pend2, finalPend, done, msgOpen, round, len, -⟩ := hi
  exact ⟨pend2, finalPend, done, msgOpen, round, len, fun _ => ⟨rfl, rfl⟩⟩

theorem openMessage_inv {s : State} (hi : Inv s) : Inv (openMessage s) := by
  obtain ⟨-, -, -, -, round, -, err⟩ := hi
  exact ⟨by simp, by simp, by simp, by simp, round, by simp, err⟩

theorem absorbByte_inv {s : State} (hi : Inv s) (hb : s.status.busy = false) (hm : s.status.msgOpen = true)
    (hl : s.len.toNat + 8 ≤ 2 ^ 64 - 1) (b : Byte) : Inv (absorbByte b s) := by
  obtain ⟨pend2, finalPend, done, msgOpen, round, len, err⟩ := hi
  have hp : s.status.pend2 = false := by simpa [hb] using pend2
  have hf : s.status.finalPend = false := by simpa [hb] using finalPend
  have hd : s.status.done = false := (msgOpen hm).1
  have hlen : (absorbByte b s).len.toNat % 8 = 0 ∧ (absorbByte b s).len.toNat ≤ 2 ^ 64 - 8 := by
    rw [absorbByte_len, toNat_len_add_eight hl]
    omega
  have hs := absorbByte_status b s
  by_cases hk : s.len.toNat / 8 % 64 = 63
  · rw [if_pos hk] at hs
    exact ⟨by simp [hs, hp], by simp [hs], by simp [hs, hd], by simp [hs, hd, hf], by simp [hs], hlen, hs ▸ err⟩
  · rw [if_neg hk] at hs
    exact ⟨hs ▸ pend2, hs ▸ finalPend, hs ▸ done, hs ▸ msgOpen, hs ▸ round, hlen, hs ▸ err⟩

theorem finaliseMessage_inv {s : State} (hi : Inv s) (hm : s.status.msgOpen = true) : Inv (finaliseMessage s) := by
  obtain ⟨-, -, -, msgOpen, -, len, err⟩ := hi
  have hd : s.status.done = false := (msgOpen hm).1
  exact ⟨by simp, by simp, by simp [hd], by simp, by simp, len, err⟩

theorem exec_inv {i : Instr} {s t : State} (hi : Inv s) (h : exec i s = .next t) : Inv t := by
  obtain ⟨c, -, rfl⟩ | ⟨-, -, -, -, rfl⟩ | ⟨-, x, rfl⟩ | ⟨-, rfl⟩ | ⟨-, rfl⟩ | ⟨-, -, rfl⟩ |
    ⟨b, -, hb, hm, hl, rfl⟩ | ⟨-, -, hm, rfl⟩ := exec_cases h
  · exact reject_inv c hi
  · exact reject_inv _ hi
  · exact setResult_inv x hi
  · exact hi
  · exact clearError_inv hi
  · exact openMessage_inv hi
  · exact absorbByte_inv hi hb hm hl b
  · exact finaliseMessage_inv hi hm

/-- Settles O58: one lemma for each effect that a step can have on the core. -/
theorem everyStepKeepsTheInvariants : Obligations.EveryStepKeepsTheInvariants := by
  unfold Obligations.EveryStepKeepsTheInvariants
  intro s t hi h
  obtain ⟨hturn, hc⟩ | ⟨-, hc⟩ | ⟨v, why, -, -, hc⟩ | ⟨v, i, u, -, -, hu, hc⟩ | ⟨v, -, hc⟩ | ⟨i, v, -, hc⟩ | hc :=
    step_core_cases h
  · exact (engineStep_inv (engineTurn_busy hturn) hi).of_sameCore hc
  · exact inv_reset.of_sameCore hc
  · exact (reject_inv .illegalCmd hi).of_sameCore hc
  · exact (exec_inv hi hu).of_sameCore hc
  · obtain ⟨pend2, finalPend, done, msgOpen, round, len, err⟩ := hi
    exact Inv.of_sameCore hc ⟨pend2, finalPend, done, msgOpen, round, len, err⟩
  · obtain ⟨pend2, finalPend, done, msgOpen, round, len, err⟩ := hi
    exact Inv.of_sameCore hc ⟨pend2, finalPend, done, msgOpen, round, len, err⟩
  · exact hi.of_sameCore hc

/-! The error code. -/

theorem reject_codeInv {c : ErrCode} (hnone : c ≠ .none) (hmal : c ≠ .malformedBlock) {s : State} (hi : CodeInv s) :
    CodeInv (reject c s) := by
  obtain ⟨neverMalformed, recorded⟩ := hi
  have hcode := reject_errCode c s
  cases he : s.status.err with
  | true =>
    rw [he, if_pos rfl] at hcode
    exact ⟨by rwa [hcode], fun _ => by rw [hcode]; exact recorded he⟩
  | false =>
    rw [he, if_neg Bool.false_ne_true] at hcode
    exact ⟨by rwa [hcode], fun _ => by rwa [hcode]⟩

theorem engineStep_record (s : State) : (engineStep s).status.err = s.status.err ∧
    (engineStep s).status.multi = s.status.multi ∧ (engineStep s).status.errCode = s.status.errCode := by
  obtain ⟨t, -, e⟩ | ⟨-, e⟩ := engineStep_cases s
  · simp [e]
  · cases hp : s.status.pend2 <;> simp [e, hp]

theorem absorbByte_record (b : Byte) (s : State) : (absorbByte b s).status.err = s.status.err ∧
    (absorbByte b s).status.multi = s.status.multi ∧ (absorbByte b s).status.errCode = s.status.errCode := by
  rw [absorbByte_status]
  split <;> simp

theorem exec_codeInv {i : Instr} {s t : State} (hi : CodeInv s) (h : exec i s = .next t) : CodeInv t := by
  obtain ⟨c, hc, rfl⟩ | ⟨-, -, -, -, rfl⟩ | ⟨-, x, rfl⟩ | ⟨-, rfl⟩ | ⟨-, rfl⟩ | ⟨-, -, rfl⟩ |
    ⟨b, -, -, -, -, rfl⟩ | ⟨-, -, -, rfl⟩ := exec_cases h
  · exact reject_codeInv (by rintro rfl; simp at hc) (by rintro rfl; simp at hc) hi
  · exact reject_codeInv (by decide) (by decide) hi
  · exact .of_status (s := s) rfl rfl hi
  · exact hi
  · exact ⟨by simp, by simp⟩
  · exact .of_status (s := s) rfl rfl hi
  · obtain ⟨herr, -, hcode⟩ := absorbByte_record b s
    exact hi.of_status herr hcode
  · exact .of_status (s := s) rfl rfl hi

/-- Settles O59: only a rejection writes a code, and none is raised with `NONE` or `MALFORMED_BLOCK`. -/
theorem everyStepKeepsLegalCodes : Obligations.EveryStepKeepsLegalCodes := by
  unfold Obligations.EveryStepKeepsLegalCodes
  intro s t hi h
  obtain ⟨-, hc⟩ | ⟨-, hc⟩ | ⟨v, why, -, -, hc⟩ | ⟨v, i, u, -, -, hu, hc⟩ | ⟨v, -, hc⟩ | ⟨i, v, -, hc⟩ | hc :=
    step_core_cases h
  · obtain ⟨herr, -, hcode⟩ := engineStep_record s
    exact (hi.of_status herr hcode).of_sameCore hc
  · exact codeInv_reset.of_sameCore hc
  · exact (reject_codeInv (by decide) (by decide) hi).of_sameCore hc
  · exact (exec_codeInv hi hu).of_sameCore hc
  · exact CodeInv.of_sameCore hc (.of_status (s := s) rfl rfl hi)
  · exact CodeInv.of_sameCore hc (.of_status (s := s) rfl rfl hi)
  · exact hi.of_sameCore hc

end Sys2Proof.Machine

/-! ### The padded message (41_padder.md R111, R119) -/

namespace Sys2Proof.Machine

/-- How many zero bytes `Pad` puts after the 0x80 (R111). -/
def padZeros (n : Nat) : Nat := ((55 - (n : Int)) % 64).toNat

/-- Byte `i` of the big-endian bit-length `l`. -/
def lengthByte (l i : Nat) : Byte := BitVec.ofNat 8 (l / 2 ^ (8 * (7 - i)))

/-- The zeros fill the last Block up to its 8 length bytes (R119). -/
theorem padZeros_eq (n : Nat) : n + 1 + padZeros n + 8 = 64 * ((n + 8) / 64 + 1) := by
  unfold padZeros
  omega

theorem padBytes_eq {bs : List Byte} (hn : bs.length < 2 ^ 61) : padBytes bs =
    bs ++ [0x80] ++ List.replicate (padZeros bs.length) 0 ++ (List.range 8).map (lengthByte (8 * bs.length)) := by
  have hlen : (BitVec.ofNat 64 (8 * bs.length)).toNat = 8 * bs.length := Nat.mod_eq_of_lt (by omega)
  simp [padBytes, padZeros, lengthByte, BitVec.extractLsb', hlen, Nat.shiftRight_eq_div_pow, List.range_succ]

theorem padBytes_length {bs : List Byte} (hn : bs.length < 2 ^ 61) :
    (padBytes bs).length = 64 * ((bs.length + 8) / 64 + 1) := by
  rw [← padZeros_eq, padBytes_eq hn]
  simp only [List.length_append, List.length_singleton, List.length_replicate, List.length_map, List.length_range]

/-! The four parts of the string, by position. -/

theorem padBytes_getElem?_message {bs : List Byte} (hn : bs.length < 2 ^ 61) {k : Nat} (hk : k < bs.length) :
    (padBytes bs)[k]? = bs[k]? := by
  rw [padBytes_eq hn, List.append_assoc, List.append_assoc, List.getElem?_append_left hk]

theorem padBytes_getElem?_one {bs : List Byte} (hn : bs.length < 2 ^ 61) : (padBytes bs)[bs.length]? = some 0x80 := by
  rw [padBytes_eq hn, List.append_assoc, List.append_assoc, List.getElem?_append_right (Nat.le_refl _)]
  simp

theorem padBytes_getElem?_zeros {bs : List Byte} (hn : bs.length < 2 ^ 61) {k : Nat} (hk : bs.length < k)
    (hk' : k < (padBytes bs).length - 8) : (padBytes bs)[k]? = some 0 := by
  have hz := padZeros_eq bs.length
  rw [padBytes_length hn, ← hz] at hk'
  rw [padBytes_eq hn, List.getElem?_append_left (by simp; omega), List.getElem?_append_right (by simp; omega),
    List.getElem?_replicate_of_lt (by simp; omega)]

theorem padBytes_drop {bs : List Byte} (hn : bs.length < 2 ^ 61) :
    (padBytes bs).drop ((padBytes bs).length - 8) = (List.range 8).map (lengthByte (8 * bs.length)) := by
  rw [padBytes_length hn, ← padZeros_eq, padBytes_eq hn]
  exact List.drop_left' (by simp; omega)

theorem padBytes_getElem?_length {bs : List Byte} (hn : bs.length < 2 ^ 61) {i : Nat} (hi : i < 8) :
    (padBytes bs)[(padBytes bs).length - 8 + i]? = some (lengthByte (8 * bs.length) i) := by
  rw [← List.getElem?_drop, padBytes_drop hn, List.getElem?_map, List.getElem?_range hi]
  rfl

/-- The first `i` bytes of the bit-length `l` are its leading part. -/
theorem foldl_lengthByte_take {l i : Nat} (hl : l < 2 ^ 64) (hi : i ≤ 8) :
    ((List.range i).map (lengthByte l)).foldl (fun n b => 256 * n + b.toNat) 0 = l / 2 ^ (8 * (8 - i)) := by
  induction i with
  | zero => exact (Nat.div_eq_of_lt hl).symm
  | succ i ih =>
    have hdiv : l / 2 ^ (8 * (8 - i)) = l / 2 ^ (8 * (7 - i)) / 256 := by
      rw [Nat.div_div_eq_div_mul, show 8 * (8 - i) = 8 * (7 - i) + 8 by omega, Nat.pow_add]
    rw [List.range_succ, List.map_append, List.foldl_append, ih (by omega), hdiv, show 8 - (i + 1) = 7 - i by omega]
    exact Nat.div_add_mod (l / 2 ^ (8 * (7 - i))) 256

theorem foldl_lengthByte {l : Nat} (hl : l < 2 ^ 64) :
    ((List.range 8).map (lengthByte l)).foldl (fun n b => 256 * n + b.toNat) 0 = l := by
  rw [foldl_lengthByte_take hl (Nat.le_refl 8), Nat.sub_self, Nat.mul_zero, Nat.pow_zero, Nat.div_one]

theorem padBlocks_length {bs : List Byte} (hn : bs.length < 2 ^ 61) :
    (padBlocks bs).length = (bs.length + 8) / 64 + 1 := by
  rw [padBlocks, List.length_map, List.length_range, padBytes_length hn, Nat.mul_div_cancel_left _ (by decide)]

/-- Settles O29: the four parts of the string by position, its length from the number of zeros. -/
theorem paddingShape : Obligations.PaddingShape := by
  unfold Obligations.PaddingShape
  intro bs hn
  refine ⟨padBytes_length hn, padBlocks_length hn, ?message, padBytes_getElem?_one hn,
    fun k hk hk' => padBytes_getElem?_zeros hn hk hk', ?length⟩
  case message => rw [padBytes_eq hn, List.append_assoc, List.append_assoc, List.take_left]
  case length => rw [padBytes_drop hn, foldl_lengthByte (by omega)]

end Sys2Proof.Machine

/-! ### The Blocks of a message (41_padder.md R111, R112, 42_compressor.md R138) -/

namespace Sys2Proof.Machine

theorem extractLsb'_wordAt (ps : List Byte) (j : Nat) (p : Fin 4) :
    (wordAt ps j).extractLsb' (24 - 8 * p.val) 8 = ps.getD (4 * j + p.val) 0 := by
  match p with
  | 0 => exact (BitVec.extractLsb'_append_eq_of_le (w := 16) (by decide)).trans BitVec.extractLsb'_append_eq_left
  | 1 => exact (BitVec.extractLsb'_append_eq_of_le (w := 16) (by decide)).trans BitVec.extractLsb'_append_eq_right
  | 2 => exact (BitVec.extractLsb'_append_eq_of_add_le (w := 16) (by decide)).trans BitVec.extractLsb'_append_eq_left
  | 3 => exact (BitVec.extractLsb'_append_eq_of_add_le (w := 16) (by decide)).trans BitVec.extractLsb'_append_eq_right

/-- Byte `j` of Block `q` is byte `64q + j` of the string. -/
theorem getByte_blockAt (ps : List Byte) (q : Nat) (j : Fin 64) :
    getByte (blockAt ps q) j = ps.getD (64 * q + j.val) 0 := by
  have hword : (blockAt ps q)[j.val / 4] = wordAt ps (16 * q + j.val / 4) := by
    simp [blockAt]
  have hbyte : 4 * (16 * q + j.val / 4) + j.val % 4 = 64 * q + j.val := by omega
  rw [getByte, laneShift, hword, extractLsb'_wordAt ps _ ⟨j.val % 4, Nat.mod_lt _ (by decide)⟩, hbyte]

theorem eq_blockAt {m : Block} {ps : List Byte} {q : Nat}
    (h : ∀ j : Fin 64, getByte m j = ps.getD (64 * q + j.val) 0) : m = blockAt ps q :=
  block_ext_bytes fun j => by rw [h, getByte_blockAt]

/-- A Block that is complete does not change when bytes follow. -/
theorem blockAt_append {ps : List Byte} {q : Nat} (hq : q < ps.length / 64) (qs : List Byte) :
    blockAt (ps ++ qs) q = blockAt ps q :=
  eq_blockAt fun j => by rw [getByte_blockAt, List.getD_append _ _ _ _ (by omega)]

/-- The complete Blocks of a byte string. -/
def wholeBlocks (ps : List Byte) : List Block := (List.range (ps.length / 64)).map (blockAt ps)

theorem padBlocks_eq_wholeBlocks (bs : List Byte) : padBlocks bs = wholeBlocks (padBytes bs) := rfl

/-- The Blocks that `qs` completes come after those of `ps`. -/
theorem wholeBlocks_append (ps qs : List Byte) : wholeBlocks (ps ++ qs) = wholeBlocks ps ++
    (List.range ((ps ++ qs).length / 64 - ps.length / 64)).map fun i => blockAt (ps ++ qs) (ps.length / 64 + i) := by
  have hle : ps.length / 64 ≤ (ps ++ qs).length / 64 := Nat.div_le_div_right (by simp)
  obtain ⟨d, hd⟩ := Nat.exists_eq_add_of_le hle
  have hps : (List.range (ps.length / 64)).map (blockAt (ps ++ qs)) = wholeBlocks ps :=
    List.map_congr_left fun q hq => blockAt_append (List.mem_range.1 hq) qs
  rw [hd, Nat.add_sub_cancel_left, wholeBlocks, hd, List.range_add, List.map_append, hps, List.map_map]
  rfl

/-! What the padder has absorbed. -/

/-- The padder between two commands, after the bytes `ps` of an open message: `H` holds the complete Blocks, and the
Block register the bytes of the Block that is not complete yet. -/
structure Absorbed (ps : List Byte) (s : State) : Prop where
  busy : s.status.busy = false
  msgOpen : s.status.msgOpen = true
  pend2 : s.status.pend2 = false
  len : s.len.toNat = 8 * ps.length
  h : s.h = (wholeBlocks ps).foldl compress iv
  m : ∀ j : Fin 64, j.val < ps.length % 64 → getByte s.m j = ps.getD (64 * (ps.length / 64) + j.val) 0

theorem Absorbed.of_sameCore {ps : List Byte} {s t : State} (h : SameCore t s) (ha : Absorbed ps s) :
    Absorbed ps t := by
  obtain ⟨busy, msgOpen, pend2, len, hh, m⟩ := ha
  rw [← h.status] at busy msgOpen pend2
  exact ⟨busy, msgOpen, pend2, h.len ▸ len, h.h ▸ hh, h.m ▸ m⟩

theorem absorbed_openMessage {s : State} (hb : s.status.busy = false) : Absorbed [] (openMessage s) :=
  ⟨hb, rfl, rfl, rfl, rfl, fun _ hj => absurd hj (Nat.not_lt_zero _)⟩

/-! A Block that has been started, after the engine's last step on it. -/

theorem drain_engineSteps {k : Nat} {s : State} (hk : k ≤ workLeft s) : drain (engineSteps k s) = drain s := by
  induction k generalizing s with
  | zero => rfl
  | succ k ih =>
    have hb : s.status.busy = true := busy_of_workLeft_pos (by omega)
    have hwork := workLeft_engineStep hb
    rw [← drain_engineStep hb]
    exact ih (by omega)

theorem drain_start_of_not_pend2 {s : State} (hp : s.status.pend2 = false) :
    drain (start s) = feedForward (afterRounds s 64) := by
  rw [drain, workLeft_start, hp]
  exact engineSteps_sixtyFive_start s

/-- The state whose `Start()` follows the first of two final Blocks (R116). -/
def secondBlock (s : State) : State :=
  { afterRounds s 64 with
    h := compress s.h s.m
    m := lengthBlock s.len
    status := { (afterRounds s 64).status with pend2 := false } }

theorem drain_start_of_pend2 {s : State} (hp : s.status.pend2 = true) :
    drain (start s) = feedForward (afterRounds (secondBlock s) 64) := by
  have hwork : 65 ≤ workLeft (start s) := by simp [workLeft_start, hp]
  have hnext : feedForward (afterRounds s 64) = start (secondBlock s) := by
    rw [feedForward_of_pend2 (s := afterRounds s 64) hp, secondBlock, compress_eq]
    rfl
  rw [← drain_engineSteps hwork, engineSteps_sixtyFive_start, hnext]
  exact drain_start_of_not_pend2 rfl

/-- The last Block ends with the sum, with the message done where a `FINAL` waits, and the rest as at the `Start()`. -/
theorem feedForward_afterRounds {s : State} (hp : s.status.pend2 = false) :
    (feedForward (afterRounds s 64)).h = compress s.h s.m ∧ (feedForward (afterRounds s 64)).m = s.m ∧
    (feedForward (afterRounds s 64)).len = s.len ∧
    (feedForward (afterRounds s 64)).status = (afterRounds s 64).status.finishBlock := by
  have hp' : (afterRounds s 64).status.pend2 = false := hp
  rw [feedForward_of_not_pend2 hp', compress_eq]
  exact ⟨rfl, rfl, rfl, rfl⟩

/-! `ABSORB`. -/

/-- What `ABSORB b` does before a `Start()` (R114). -/
def storeByte (b : Byte) (s : State) : State := { s with m := putByte s.m (bytePos s.len) b, len := s.len + 8 }

theorem absorbByte_eq_storeByte (b : Byte) (s : State) : absorbByte b s =
    if s.len.toNat / 8 % 64 = 63 then start (storeByte b s) else storeByte b s := by
  rw [← bytePos_val]
  rfl

theorem Absorbed.bytePos_eq {ps : List Byte} {s : State} (ha : Absorbed ps s) :
    (bytePos s.len).val = ps.length % 64 := by
  rw [bytePos_val, ha.len, Nat.mul_div_cancel_left _ (by decide)]

theorem Absorbed.storeByte_len {ps : List Byte} {s : State} (ha : Absorbed ps s)
    (hl : s.len.toNat + 8 ≤ 2 ^ 64 - 1) (b : Byte) : (storeByte b s).len.toNat = 8 * (ps ++ [b]).length := by
  rw [storeByte, toNat_len_add_eight hl, ha.len, List.length_append, Nat.mul_add]
  rfl

/-- The Block register then holds the new byte after those before it. -/
theorem Absorbed.getByte_storeByte {ps : List Byte} {s : State} (ha : Absorbed ps s) (b : Byte) {j : Fin 64}
    (hj : j.val ≤ ps.length % 64) :
    getByte (storeByte b s).m j = (ps ++ [b]).getD (64 * (ps.length / 64) + j.val) 0 := by
  have hpos := ha.bytePos_eq
  rw [storeByte, getByte_putByte]
  by_cases h : j = bytePos s.len
  · rw [if_pos h, List.getD_append_right _ _ _ _ (by omega), show 64 * (ps.length / 64) + j.val - ps.length = 0 by omega]
    rfl
  · have hne : j.val ≠ ps.length % 64 := fun e => h (Fin.ext (e.trans hpos.symm))
    rw [if_neg h, ha.m j (by omega), List.getD_append _ _ _ _ (by omega)]

/-- A byte before position 63 waits in the Block register. -/
theorem absorbed_storeByte {ps : List Byte} {s : State} (ha : Absorbed ps s) (hl : s.len.toNat + 8 ≤ 2 ^ 64 - 1)
    (hk : ps.length % 64 ≠ 63) (b : Byte) : Absorbed (ps ++ [b]) (storeByte b s) := by
  have hdiv : (ps ++ [b]).length / 64 = ps.length / 64 := by
    rw [List.length_append, List.length_singleton]
    omega
  refine ⟨ha.busy, ha.msgOpen, ha.pend2, ha.storeByte_len hl b, ?h, fun j hj => ?m⟩
  case h => rw [wholeBlocks_append, hdiv, Nat.sub_self, List.range_zero, List.map_nil, List.append_nil]; exact ha.h
  case m =>
    rw [List.length_append, List.length_singleton] at hj
    rw [hdiv]
    exact ha.getByte_storeByte b (by omega)

/-- The byte at position 63 completes a Block, which the engine works off. -/
theorem absorbed_drain_start_storeByte {ps : List Byte} {s : State} (ha : Absorbed ps s)
    (hl : s.len.toNat + 8 ≤ 2 ^ 64 - 1) (hk : ps.length % 64 = 63) (b : Byte) :
    Absorbed (ps ++ [b]) (drain (start (storeByte b s))) := by
  have hp : (storeByte b s).status.pend2 = false := ha.pend2
  have hdiv : (ps ++ [b]).length / 64 = ps.length / 64 + 1 ∧ (ps ++ [b]).length % 64 = 0 := by
    rw [List.length_append, List.length_singleton]
    omega
  obtain ⟨hh, -, hlen, hstatus⟩ := feedForward_afterRounds hp
  have hblock : (storeByte b s).m = blockAt (ps ++ [b]) (ps.length / 64) :=
    eq_blockAt fun j => ha.getByte_storeByte b (by omega)
  rw [drain_start_of_not_pend2 hp]
  refine ⟨?busy, ?msgOpen, ?pend2, ?len, ?h, fun j hj => absurd hj (by omega)⟩
  case busy => rw [hstatus, Status.finishBlock_busy]
  case msgOpen => rw [hstatus, Status.finishBlock_msgOpen]; exact ha.msgOpen
  case pend2 => rw [hstatus, Status.finishBlock_pend2]; exact ha.pend2
  case len => rw [hlen, ha.storeByte_len hl b]
  case h =>
    rw [hh, hblock, wholeBlocks_append, hdiv.1, Nat.add_sub_cancel_left, List.foldl_append, ← ha.h]
    rfl

/-- `ABSORB` and the engine's work after it take the padder from `ps` to `ps ++ [b]` (R114). -/
theorem absorbed_drain_absorbByte {ps : List Byte} {s : State} (ha : Absorbed ps s)
    (hl : s.len.toNat + 8 ≤ 2 ^ 64 - 1) (b : Byte) : Absorbed (ps ++ [b]) (drain (absorbByte b s)) := by
  rw [absorbByte_eq_storeByte, ← bytePos_val, ha.bytePos_eq]
  split
  · next hk => exact absorbed_drain_start_storeByte ha hl hk b
  · next hk =>
    have hstored := absorbed_storeByte ha hl hk b
    rwa [drain_of_idle hstored.busy]

/-! `FINAL`. -/

/-- The bytes of the padded string by position. -/
theorem padBytes_getD {bs : List Byte} (hn : bs.length < 2 ^ 61) {k : Nat} (hk : k < (padBytes bs).length) :
    (padBytes bs).getD k 0 =
      if k < bs.length then bs.getD k 0 else if k = bs.length then 0x80
      else if (padBytes bs).length - 8 ≤ k then lengthByte (8 * bs.length) (k - ((padBytes bs).length - 8))
      else 0 := by
  rw [List.getD_eq_getElem?_getD]
  split
  · next h => rw [padBytes_getElem?_message hn h, List.getD_eq_getElem?_getD]
  · split
    · next h => rw [h, padBytes_getElem?_one hn]; rfl
    · split
      · next h =>
        have hpos := padBytes_getElem?_length hn (i := k - ((padBytes bs).length - 8)) (by omega)
        rw [Nat.add_sub_cancel' h] at hpos
        rw [hpos]
        rfl
      · next h => rw [padBytes_getElem?_zeros hn (by omega) (by omega)]; rfl

/-- The Block that `FINAL` makes is the one that holds the end of the message (R115). -/
theorem Absorbed.finalBlock_eq {bs : List Byte} {s : State} (ha : Absorbed bs s) (hn : bs.length < 2 ^ 61) :
    finalBlock s.m s.len = blockAt (padBytes bs) (bs.length / 64) := by
  have htotal := padBytes_length hn
  refine eq_blockAt fun j => ?_
  rw [padBytes_getD hn (by omega), getByte_finalBlock, ha.bytePos_eq, ha.len]
  refine ite_congr (propext (by omega)) (fun h => ?message) fun _ => ite_congr (propext (by omega)) (fun _ => rfl)
    fun _ => ite_congr (propext (by omega)) (fun h => ?length) fun _ => rfl
  case message => exact ha.m j (by omega)
  case length =>
    have hi : 7 - (64 * (bs.length / 64) + j.val - ((padBytes bs).length - 8)) = 63 - j.val := by omega
    rw [lengthByte, hi]

/-- The length-only Block is the one after the end of the message (R116). -/
theorem Absorbed.lengthBlock_eq {bs : List Byte} {s : State} (ha : Absorbed bs s) (hn : bs.length < 2 ^ 61)
    (hr : 56 ≤ bs.length % 64) : lengthBlock s.len = blockAt (padBytes bs) (bs.length / 64 + 1) := by
  have htotal := padBytes_length hn
  refine eq_blockAt fun j => ?_
  rw [padBytes_getD hn (by omega), getByte_lengthBlock, ha.len,
    if_neg (show ¬ 64 * (bs.length / 64 + 1) + j.val < bs.length by omega),
    if_neg (show ¬ 64 * (bs.length / 64 + 1) + j.val = bs.length by omega)]
  refine ite_congr (propext (by omega)) (fun h => ?_) fun _ => rfl
  have hi : 7 - (64 * (bs.length / 64 + 1) + j.val - ((padBytes bs).length - 8)) = 63 - j.val := by omega
  rw [lengthByte, hi]

/-- The Blocks of the padded message: the complete ones of the message, then one or two (R111). -/
theorem padBlocks_eq {bs : List Byte} (hn : bs.length < 2 ^ 61) : padBlocks bs = wholeBlocks bs ++
    if 56 ≤ bs.length % 64 then
      [blockAt (padBytes bs) (bs.length / 64), blockAt (padBytes bs) (bs.length / 64 + 1)]
    else [blockAt (padBytes bs) (bs.length / 64)] := by
  have hblocks : (padBytes bs).length / 64 - bs.length / 64 = if 56 ≤ bs.length % 64 then 2 else 1 := by
    have := padBytes_length hn
    split <;> omega
  obtain ⟨tail, htail⟩ : ∃ tail, padBytes bs = bs ++ tail := ⟨_, by rw [padBytes, List.append_assoc, List.append_assoc]⟩
  rw [padBlocks_eq_wholeBlocks, htail, wholeBlocks_append, ← htail, hblocks]
  split <;> rfl

/-- The core after `FINAL` and the engine's work after it. -/
structure Hashed (bs : List Byte) (s : State) : Prop where
  busy : s.status.busy = false
  done : s.status.done = true
  msgOpen : s.status.msgOpen = false
  len : s.len.toNat = 8 * bs.length
  h : s.h = digest bs

theorem Hashed.of_sameCore {bs : List Byte} {s t : State} (h : SameCore t s) (hh : Hashed bs s) : Hashed bs t := by
  obtain ⟨busy, done, msgOpen, len, hdigest⟩ := hh
  rw [← h.status] at busy done msgOpen
  exact ⟨busy, done, msgOpen, h.len ▸ len, h.h ▸ hdigest⟩

/-- The state of an accepted `FINAL` before its `Start()` (R115). -/
def paddedMessage (s : State) : State :=
  { s with m := finalBlock s.m s.len, status := s.status.finalise (decide (55 < (bytePos s.len).val)) }

theorem finaliseMessage_eq_start (s : State) : finaliseMessage s = start (paddedMessage s) := rfl

/-- The last Block of a finalised message ends it. -/
theorem hashed_feedForward {bs : List Byte} {s : State} (hp : s.status.pend2 = false)
    (hf : s.status.finalPend = true) (hm : s.status.msgOpen = false) (hlen : s.len.toNat = 8 * bs.length)
    (hd : compress s.h s.m = digest bs) : Hashed bs (feedForward (afterRounds s 64)) := by
  obtain ⟨hh, -, hlen', hstatus⟩ := feedForward_afterRounds hp
  rw [Status.finishBlock_of_finalPend (st := (afterRounds s 64).status) hf] at hstatus
  exact ⟨by rw [hstatus], by rw [hstatus], by rw [hstatus]; exact hm, by rw [hlen', hlen], by rw [hh, hd]⟩

/-- `FINAL` and the engine's work after it take the padder from the message to its digest (R115, R116). -/
theorem hashed_drain_finaliseMessage {bs : List Byte} {s : State} (ha : Absorbed bs s) (hn : bs.length < 2 ^ 61) :
    Hashed bs (drain (finaliseMessage s)) := by
  have hpend2 : (paddedMessage s).status.pend2 = decide (56 ≤ bs.length % 64) := by
    rw [← ha.bytePos_eq]
    rfl
  have hdigest : digest bs = (padBlocks bs).foldl compress iv := rfl
  rw [finaliseMessage_eq_start]
  by_cases hr : 56 ≤ bs.length % 64
  · rw [decide_eq_true hr] at hpend2
    rw [drain_start_of_pend2 hpend2]
    refine hashed_feedForward rfl rfl rfl ha.len ?_
    rw [hdigest, padBlocks_eq hn, if_pos hr, List.foldl_append, ← ha.h, ← ha.finalBlock_eq hn,
      ← ha.lengthBlock_eq hn hr]
    rfl
  · rw [decide_eq_false hr] at hpend2
    rw [drain_start_of_not_pend2 hpend2]
    refine hashed_feedForward hpend2 rfl rfl ha.len ?_
    rw [hdigest, padBlocks_eq hn, if_neg hr, List.foldl_append, ← ha.h, ← ha.finalBlock_eq hn]
    rfl

end Sys2Proof.Machine

/-! ### `HASH` (30_encoding.md R78, 41_padder.md R118, 42_compressor.md R138) -/

namespace Sys2Proof.Machine

/-! A command statement as a step. -/

/-- A command on the state whose program goes on after it, and the command on the state itself. -/
theorem exec_takeStmt {i : Instr} {s u : State} (h : exec i s = .next u) (rest : List HostStmt) :
    exec i (takeStmt rest s) =
      .next { u with prog := rest, slack := if s.status.busy then s.slack - 1 else s.slack } := by
  rw [takeStmt, exec_setHost, h]
  rfl

theorem hostStep_write_cmd (x : HostVal) (s : State) : hostStep (wr .cmd x) s = command (valueOf x s) s :=
  memWrite_offset .cmd _ s

/-- A command that is accepted, as a step: its effect on the core, and the host's program goes on. -/
theorem step_cmdStmt {i : Instr} {rest : List HostStmt} {s u : State} (hi : i.wellFormed = true)
    (hb : s.status.busy = false) (hp : s.prog = cmdStmt i :: rest) (h : exec i s = .next u) :
    ∃ t, step s = .next t ∧ SameCore t u ∧ SameHost t { s with prog := rest } := by
  obtain ⟨u', hu', -, hreads, hvars, hchecks, -⟩ := exec_next i s
  obtain rfl : u' = u := by simpa [hu'] using h
  rw [step_host (hostNext_of_idle hb hp), hostMove, cmdStmt, hostStep_write_cmd, valueOf_lit,
    command_of_decode (decode_encode hi), exec_takeStmt h]
  exact ⟨_, rfl, (armEngine_sameCore _ _).trans (by constructor <;> rfl),
    ⟨armEngine_prog _ _, (armEngine_reads _ _).trans hreads, (armEngine_vars _ _).trans hvars,
      (armEngine_checks _ _).trans hchecks⟩⟩

/-! What `HASH` leaves as it was. -/

/-- The two states agree on `OP`, `RESULT`, `CFG` and the error record. -/
structure CoreKept (s t : State) : Prop where
  op : s.op = t.op
  result : s.result = t.result
  cfgUpper : s.cfgUpper = t.cfgUpper
  err : s.status.err = t.status.err
  multi : s.status.multi = t.status.multi
  errCode : s.status.errCode = t.status.errCode

theorem CoreKept.refl (s : State) : CoreKept s s := by constructor <;> rfl

theorem CoreKept.trans {s t u : State} (h : CoreKept s t) (h' : CoreKept t u) : CoreKept s u :=
  ⟨h.op.trans h'.op, h.result.trans h'.result, h.cfgUpper.trans h'.cfgUpper, h.err.trans h'.err,
    h.multi.trans h'.multi, h.errCode.trans h'.errCode⟩

theorem SameCore.coreKept {s t : State} (h : SameCore s t) : CoreKept s t :=
  ⟨h.op, h.result, h.cfgUpper, by rw [h.status], by rw [h.status], by rw [h.status]⟩

theorem engineStep_coreKept (s : State) : CoreKept (engineStep s) s := by
  obtain ⟨op, result, -, cfgUpper, -⟩ := engineStep_frame s
  obtain ⟨err, multi, errCode⟩ := engineStep_record s
  exact ⟨op, result, cfgUpper, err, multi, errCode⟩

theorem drain_coreKept (s : State) : CoreKept (drain s) s :=
  drain_induction (P := fun s t => CoreKept t s) (fun s _ => .refl s)
    (fun s _ _ h => h.trans (engineStep_coreKept s)) s

theorem absorbByte_coreKept (b : Byte) (s : State) : CoreKept (absorbByte b s) s := by
  obtain ⟨err, multi, errCode⟩ := absorbByte_record b s
  exact ⟨absorbByte_op s b, absorbByte_result s b, absorbByte_cfgUpper s b, err, multi, errCode⟩

/-- The program's next part has run: the host goes on with `rest`, and what `HASH` keeps is kept. -/
structure Passed (rest : List HostStmt) (s t : State) : Prop where
  host : SameHost t { s with prog := rest }
  core : CoreKept t s

theorem Passed.trans {rest rest' : List HostStmt} {s t u : State} (h : Passed rest s t) (h' : Passed rest' t u) :
    Passed rest' s u :=
  ⟨h'.host.trans ⟨rfl, h.host.reads, h.host.vars, h.host.checks⟩, h'.core.trans h.core⟩

/-! The parts of the program. -/

theorem wait_passed {s : State} {rest : List HostStmt} (hp : s.prog = waitStmt :: rest) :
    ∃ n t, Reaches n s t ∧ SameCore t (drain s) ∧ Passed rest s t := by
  obtain ⟨n, t, hr, hc, hh⟩ := wait_reaches hp
  exact ⟨n, t, hr, hc, hh, hc.coreKept.trans (drain_coreKept s)⟩

theorem cmdStmt_passed {i : Instr} {rest : List HostStmt} {s u : State} (hi : i.wellFormed = true)
    (hb : s.status.busy = false) (hp : s.prog = cmdStmt i :: rest) (h : exec i s = .next u) (hk : CoreKept u s) :
    ∃ t, Reaches 1 s t ∧ SameCore t u ∧ Passed rest s t := by
  obtain ⟨t, hs, hc, hh⟩ := step_cmdStmt hi hb hp h
  exact ⟨t, .one hs, hc, hh, hc.coreKept.trans hk⟩

/-- `ABSORBS` and the WAIT after it absorb its bytes, from a state whose engine may still be at work. -/
theorem absorbS_passed {bs ps : List Byte} {s : State} {rest : List HostStmt} (hn : (ps ++ bs).length < 2 ^ 61)
    (hp : s.prog = absorbS bs ++ waitStmt :: rest) (ha : Absorbed ps (drain s)) :
    ∃ n t, Reaches n s t ∧ Absorbed (ps ++ bs) t ∧ Passed rest s t := by
  induction bs generalizing ps s with
  | nil =>
    obtain ⟨n, t, hr, hc, hpass⟩ := wait_passed (s := s) hp
    exact ⟨n, t, hr, by rw [List.append_nil]; exact ha.of_sameCore hc, hpass⟩
  | cons b bs ih =>
    obtain ⟨n, t, hr, hc, hpass⟩ :=
      wait_passed (s := s) (rest := cmdStmt (.absorb b) :: (absorbS bs ++ waitStmt :: rest)) hp
    have hat := ha.of_sameCore hc
    have hroom : t.len.toNat + 8 ≤ 2 ^ 64 - 1 := by
      rw [List.length_append, List.length_cons] at hn
      rw [hat.len]
      omega
    obtain ⟨u, hru, hcu, hpassu⟩ := cmdStmt_passed rfl hat.busy hpass.host.prog
      (exec_absorb hat.busy hat.msgOpen hroom b) (absorbByte_coreKept b t)
    have hau : Absorbed (ps ++ [b]) (drain u) :=
      (absorbed_drain_absorbByte hat hroom b).of_sameCore (drain_sameCore hcu)
    obtain ⟨m, v, hrv, hav, hpassv⟩ := ih (by rwa [List.append_assoc]) hpassu.host.prog hau
    rw [List.append_assoc] at hav
    exact ⟨_, v, (hr.trans hru).trans hrv, hav, (hpass.trans hpassu).trans hpassv⟩

/-- WAIT and `INIT` open an empty message. -/
theorem init_passed {s : State} {rest : List HostStmt} (hp : s.prog = waitStmt :: cmdStmt .init :: rest) :
    ∃ n t, Reaches n s t ∧ Absorbed [] t ∧ Passed rest s t := by
  obtain ⟨n, t, hr, hc, hpass⟩ := wait_passed hp
  have hb : t.status.busy = false := by rw [hc.status, drain_busy]
  obtain ⟨u, hru, hcu, hpassu⟩ := cmdStmt_passed rfl hb hpass.host.prog (exec_init hb) ⟨rfl, rfl, rfl, rfl, rfl, rfl⟩
  exact ⟨_, u, hr.trans hru, (absorbed_openMessage hb).of_sameCore hcu, hpass.trans hpassu⟩

/-- `FINAL` and WAIT end the message with its digest. -/
theorem final_passed {bs : List Byte} {s : State} {rest : List HostStmt} (hn : bs.length < 2 ^ 61)
    (hp : s.prog = cmdStmt .final :: waitStmt :: rest) (ha : Absorbed bs s) :
    ∃ n t, Reaches n s t ∧ Hashed bs t ∧ Passed rest s t := by
  obtain ⟨t, hr, hc, hpass⟩ := cmdStmt_passed rfl ha.busy hp (exec_final ha.busy ha.msgOpen)
    ⟨rfl, rfl, rfl, rfl, rfl, rfl⟩
  obtain ⟨n, u, hru, hcu, hpassu⟩ := wait_passed hpass.host.prog
  have hdrain : SameCore u (drain (finaliseMessage s)) := hcu.trans (drain_sameCore hc)
  exact ⟨_, u, hr.trans hru, (hashed_drain_finaliseMessage ha hn).of_sameCore hdrain, hpass.trans hpassu⟩

/-- Settles O39: `INIT`, then byte after byte with `Absorbed` as the invariant, then `FINAL`; each WAIT drains the
engine, whatever the interleaving. -/
theorem hashProgramComputesTheDigest : Obligations.HashProgramComputesTheDigest := by
  unfold Obligations.HashProgramComputesTheDigest
  intro bs s rest hn hp
  have hprog : hashProg bs ++ rest =
      waitStmt :: cmdStmt .init :: (absorbS bs ++ waitStmt :: cmdStmt .final :: waitStmt :: rest) := by
    simp [hashProg]
  obtain ⟨n₁, t₁, hr₁, ha₁, hpass₁⟩ := init_passed (hp.trans hprog)
  obtain ⟨n₂, t₂, hr₂, ha₂, hpass₂⟩ :=
    absorbS_passed (ps := []) hn hpass₁.host.prog (by rwa [drain_of_idle ha₁.busy])
  obtain ⟨n₃, t, hr₃, hashed, hpass₃⟩ := final_passed hn hpass₂.host.prog ha₂
  obtain ⟨⟨prog, reads, vars, checks⟩, op, result, cfgUpper, err, multi, errCode⟩ :=
    (hpass₁.trans hpass₂).trans hpass₃
  obtain ⟨busy, done, msgOpen, len, h⟩ := hashed
  exact ⟨_, t, (hr₁.trans hr₂).trans hr₃, prog, done, busy, msgOpen, h, len, err, multi, errCode, op, result, cfgUpper,
    reads, vars, checks⟩

end Sys2Proof.Machine

/-! ### The engine alone (42_compressor.md R130, R131, R137) -/

namespace Sys2Proof.Machine

/-- Settles O31: `Start()` field by field, and the schedule entry by entry. -/
theorem startCopiesBlockAndState : Obligations.StartCopiesBlockAndState := by
  unfold Obligations.StartCopiesBlockAndState
  exact fun s => ⟨rfl, start_w_low s, start_w_high s⟩

/-! A run with no host statement left. -/

theorem workLeft_engineSteps {k : Nat} {s : State} (hk : k ≤ workLeft s) :
    workLeft (engineSteps k s) + k = workLeft s := by
  induction k generalizing s with
  | zero => rfl
  | succ k ih =>
    have hb : s.status.busy = true := busy_of_workLeft_pos (by omega)
    have hwork := workLeft_engineStep hb
    have := ih (s := engineStep s) (by omega)
    rw [engineSteps]
    omega

theorem engineSteps_reached {k : Nat} {s : State} (hp : s.prog = []) (hk : k ≤ workLeft s) :
    ∃ t, Reaches k s t ∧ SameCore t (engineSteps k s) := by
  induction k generalizing s with
  | zero => exact ⟨s, .refl s, .refl s⟩
  | succ k ih =>
    have hb : s.status.busy = true := busy_of_workLeft_pos (by omega)
    have hturn : engineTurn s = true := by simp [engineTurn, hb, hp]
    have hcore := engineMove_sameCore s
    have hwork : k ≤ workLeft (engineMove s) := by
      have := workLeft_engineStep hb
      rw [workLeft_sameCore hcore]
      omega
    obtain ⟨t, hr, hc⟩ := ih ((engineMove_sameHost s).prog.trans hp) hwork
    exact ⟨t, .head (step_engine hturn) hr, hc.trans (engineSteps_sameCore hcore k)⟩

/-- The engine comes to rest with 64 rounds done, and with `DONE` set where a `FINAL` was pending. -/
theorem drain_start_status (s : State) : (drain (start s)).status.round = 64 ∧
    (s.status.finalPend = true → (drain (start s)).status.done = true) := by
  have last {u : State} (hp : u.status.pend2 = false) : (feedForward (afterRounds u 64)).status.round = 64 ∧
      (u.status.finalPend = true → (feedForward (afterRounds u 64)).status.done = true) := by
    obtain ⟨-, -, -, hstatus⟩ := feedForward_afterRounds hp
    rw [hstatus]
    exact ⟨Status.finishBlock_round _, fun hf => by
      rw [Status.finishBlock_of_finalPend (st := (afterRounds u 64).status) hf]⟩
  cases hp : s.status.pend2 with
  | true => rw [drain_start_of_pend2 hp]; exact last rfl
  | false => rw [drain_start_of_not_pend2 hp]; exact last hp

/-- Settles O36: the work left after a `Start()` is 65 or 130 steps, and `BUSY` is 1 as long as some is left. -/
theorem blockTakesSixtyFiveSteps : Obligations.BlockTakesSixtyFiveSteps := by
  unfold Obligations.BlockTakesSixtyFiveSteps
  intro s n hp hn
  obtain rfl : n = workLeft (start s) := hn.trans (workLeft_start s).symm
  refine ⟨fun k hk => ?working, ?finished⟩
  case working =>
    obtain ⟨t, hr, hc⟩ := engineSteps_reached (s := start s) hp hk.le
    have hwork := workLeft_engineSteps hk.le
    refine ⟨t, hr, busy_of_workLeft_pos ?_⟩
    rw [workLeft_sameCore hc]
    omega
  case finished =>
    obtain ⟨t, hr, hc⟩ := engineSteps_reached (s := start s) hp (Nat.le_refl _)
    have hdrain : SameCore t (drain (start s)) := hc
    obtain ⟨hround, hdone⟩ := drain_start_status s
    exact ⟨t, hr, by rw [hdrain.status, drain_busy], by rw [hdrain.status, hround],
      fun hf => by rw [hdrain.status, hdone hf], hc⟩

/-! What the engine does not touch and does not read. -/

/-- The engine writes only `H`, `M`, `W`, `WV` and `STATUS`. -/
theorem engineStep_writes (s : State) : engineStep s = { s with
    h := (engineStep s).h, m := (engineStep s).m, w := (engineStep s).w
    wv := (engineStep s).wv, status := (engineStep s).status } := by
  obtain ⟨t, -, e⟩ | ⟨-, e⟩ := engineStep_cases s <;> rw [e]
  · rfl
  · cases hp : s.status.pend2 with
    | true => rw [feedForward_of_pend2 hp]; rfl
    | false => rw [feedForward_of_not_pend2 hp]

/-- The engine takes no input from `OP`, `RESULT` or `CFG`. -/
theorem engineStep_withRegisters (ops : Vector Word 5) (res : Word) (u : Bool) (s : State) :
    engineStep { s with op := ops, result := res, cfgUpper := u } =
      { engineStep s with op := ops, result := res, cfgUpper := u } := by
  obtain ⟨t, ht, e⟩ | ⟨hr, e⟩ := engineStep_cases s <;> rw [e]
  · exact engineStep_of_castSucc (s := { s with op := ops, result := res, cfgUpper := u }) ht
  · rw [engineStep_of_sixtyFour (s := { s with op := ops, result := res, cfgUpper := u }) hr]
    cases hp : s.status.pend2 with
    | true =>
      rw [feedForward_of_pend2 hp,
        feedForward_of_pend2 (s := { s with op := ops, result := res, cfgUpper := u }) hp]
      rfl
    | false =>
      rw [feedForward_of_not_pend2 hp,
        feedForward_of_not_pend2 (s := { s with op := ops, result := res, cfgUpper := u }) hp]

/-- Settles O34: the frame of the engine's step, and its independence from the host's registers. -/
theorem engineIgnoresHostRegisters : Obligations.EngineIgnoresHostRegisters := by
  unfold Obligations.EngineIgnoresHostRegisters
  exact fun s ops res u => ⟨engineStep_writes s, engineStep_withRegisters ops res u s⟩

/-- The state with another error record. -/
def withRecord (e m : Bool) (c : ErrCode) (s : State) : State :=
  { s with status := { s.status with err := e, multi := m, errCode := c } }

/-- The engine neither reads nor writes the error record. -/
theorem engineStep_withRecord (e m : Bool) (c : ErrCode) (s : State) :
    engineStep (withRecord e m c s) = withRecord e m c (engineStep s) := by
  obtain ⟨t, ht, h⟩ | ⟨hr, h⟩ := engineStep_cases s <;> rw [h]
  · exact engineStep_of_castSucc (s := withRecord e m c s) ht
  · rw [engineStep_of_sixtyFour (s := withRecord e m c s) hr]
    cases hp : s.status.pend2 with
    | true => rw [feedForward_of_pend2 hp, feedForward_of_pend2 (s := withRecord e m c s) hp]; rfl
    | false =>
      rw [feedForward_of_not_pend2 hp, feedForward_of_not_pend2 (s := withRecord e m c s) hp]
      cases hf : s.status.finalPend with
      | true =>
        rw [Status.finishBlock_of_finalPend hf, Status.finishBlock_of_finalPend (st := (withRecord e m c s).status) hf]
        rfl
      | false =>
        rw [Status.finishBlock_of_not_finalPend hf,
          Status.finishBlock_of_not_finalPend (st := (withRecord e m c s).status) hf]
        rfl

/-! ### The WordOps commands beside the engine (40_word_ops.md R90) -/

/-- A WordOps command writes a result or is rejected, and `OP` alone decides which. -/
theorem exec_wordOp {i : Instr} (hi : isWordOp i = true) {s s' : State} (hop : s'.op = s.op) :
    (∃ x, exec i s = .next (setResult x s) ∧ exec i s' = .next (setResult x s')) ∨
    (∃ c ∈ [ErrCode.shiftRange, .addCount], exec i s = .next (reject c s) ∧ exec i s' = .next (reject c s')) := by
  have hx : operandX s' = operandX s := by simp only [operandX, hop]
  have hy : operandY s' = operandY s := by simp only [operandY, hop]
  have hz : operandZ s' = operandZ s := by simp only [operandZ, hop]
  cases i with
  | rotr n =>
    by_cases hn : n < 32
    · exact .inl ⟨_, if_pos hn, hx ▸ if_pos hn⟩
    · exact .inr ⟨.shiftRange, by simp, if_neg hn, if_neg hn⟩
  | shr n =>
    by_cases hn : n < 32
    · exact .inl ⟨_, if_pos hn, hx ▸ if_pos hn⟩
    · exact .inr ⟨.shiftRange, by simp, if_neg hn, if_neg hn⟩
  | add n =>
    have hadd : addOperands s' n = addOperands s n := by simp only [addOperands, hop]
    by_cases hn : 2 ≤ n ∧ n ≤ 5
    · exact .inl ⟨_, if_pos hn, hadd ▸ if_pos hn⟩
    · exact .inr ⟨.addCount, by simp, if_neg hn, if_neg hn⟩
  | ch => exact .inl ⟨_, rfl, by rw [← hx, ← hy, ← hz]; rfl⟩
  | maj => exact .inl ⟨_, rfl, by rw [← hx, ← hy, ← hz]; rfl⟩
  | bsig0 => exact .inl ⟨_, rfl, by rw [← hx]; rfl⟩
  | bsig1 => exact .inl ⟨_, rfl, by rw [← hx]; rfl⟩
  | ssig0 => exact .inl ⟨_, rfl, by rw [← hx]; rfl⟩
  | ssig1 => exact .inl ⟨_, rfl, by rw [← hx]; rfl⟩
  | nop | init | absorb _ | final | clrerr => cases hi

theorem readReg_setResult {r : Reg} (hr : r ≠ .result) (x : Word) (s : State) :
    readReg r (setResult x s) = readReg r s := by
  cases r with
  | result => exact absurd rfl hr
  | _ => rfl

theorem readReg_reject {r : Reg} (hr : r ≠ .status) (c : ErrCode) (s : State) :
    readReg r (reject c s) = readReg r s := by
  cases r with
  | status => exact absurd rfl hr
  | _ => simp only [readReg, reject_cfgUpper, reject_op, reject_result, reject_len, reject_m, reject_h, reject_wv]

/-- Settles O20: the two outcomes of a WordOps command, and the reads after each. -/
theorem wordOpsTouchOnlyResultOrRecord : Obligations.WordOpsTouchOnlyResultOrRecord := by
  unfold Obligations.WordOpsTouchOnlyResultOrRecord
  refine fun i hi => ⟨fun s s' hop => exec_wordOp hi hop, fun s t r h hresult hstatus => ?_⟩
  obtain ⟨x, hx, -⟩ | ⟨c, -, hc, -⟩ := exec_wordOp hi (s := s) rfl
  · obtain rfl : setResult x s = t := Host.Outcome.next.inj (hx.symm.trans h)
    exact readReg_setResult hresult x s
  · obtain rfl : reject c s = t := Host.Outcome.next.inj (hc.symm.trans h)
    exact readReg_reject hstatus c s

theorem engineStep_setResult (x : Word) (s : State) : engineStep (setResult x s) = setResult x (engineStep s) := by
  obtain ⟨hop, -, -, hcfg, -⟩ := engineStep_frame s
  have h := engineStep_withRegisters s.op x s.cfgUpper s
  rw [← hop, ← hcfg] at h
  rw [setResult, setResult, ← h, hop, hcfg]

theorem reject_eq_recordError {c : ErrCode} (hc : c ≠ .inputTooLarge) (s : State) :
    reject c s = { s with status := s.status.recordError c } := by
  cases c with
  | inputTooLarge => exact absurd rfl hc
  | _ => rfl

theorem reject_eq_withRecord {c : ErrCode} (hc : c ≠ .inputTooLarge) (s : State) : reject c s =
    withRecord true (s.status.err || s.status.multi) (if s.status.err then s.status.errCode else c) s := by
  rw [reject_eq_recordError hc, Status.recordError, withRecord]
  cases s.status.err <;> simp

theorem engineStep_reject {c : ErrCode} (hc : c ≠ .inputTooLarge) (s : State) :
    engineStep (reject c s) = reject c (engineStep s) := by
  obtain ⟨herr, hmulti, hcode⟩ := engineStep_record s
  rw [reject_eq_withRecord hc, reject_eq_withRecord hc, engineStep_withRecord, herr, hmulti, hcode]

/-- Settles O21: the engine does not look at what such a command writes, and leaves what it reads alone. -/
theorem busyCommandsCommuteWithEngine : Obligations.BusyCommandsCommuteWithEngine := by
  unfold Obligations.BusyCommandsCommuteWithEngine
  intro i s t hi h
  obtain hi | rfl | rfl := hi
  · obtain ⟨hop, -⟩ := engineStep_frame s
    obtain ⟨x, hx, hx'⟩ | ⟨c, hmem, hc, hc'⟩ := exec_wordOp hi hop
    · obtain rfl : setResult x s = t := Host.Outcome.next.inj (hx.symm.trans h)
      rw [hx', engineStep_setResult]
    · obtain rfl : reject c s = t := Host.Outcome.next.inj (hc.symm.trans h)
      rw [hc', engineStep_reject (by rintro rfl; simp at hmem)]
  · obtain rfl : s = t := Host.Outcome.next.inj h
    rfl
  · obtain rfl : clearError s = t := Host.Outcome.next.inj h
    exact congrArg _ (engineStep_withRecord false false .none s).symm

/-! ### `CFG.UPPER` (43_digest_format.md R151) -/

/-- The state with another `CFG.UPPER`. -/
def withCfg (u : Bool) (s : State) : State := { s with cfgUpper := u }

theorem reject_withCfg (c : ErrCode) (u : Bool) (s : State) : reject c (withCfg u s) = withCfg u (reject c s) := by
  cases c <;> rfl

theorem absorbByte_withCfg (b : Byte) (u : Bool) (s : State) :
    absorbByte b (withCfg u s) = withCfg u (absorbByte b s) := by
  have hlen : (withCfg u s).len = s.len := rfl
  rw [absorbByte_eq_storeByte, absorbByte_eq_storeByte, hlen]
  split <;> rfl

theorem exec_withCfg (i : Instr) (u : Bool) (s : State) :
    exec i (withCfg u s) = mapNext (withCfg u) (exec i s) := by
  have rejected {c : ErrCode} (h : exec i s = .next (reject c s))
      (h' : exec i (withCfg u s) = .next (reject c (withCfg u s))) :
      exec i (withCfg u s) = mapNext (withCfg u) (exec i s) := by
    rw [h, h', reject_withCfg]
    rfl
  cases hi : isWordOp i with
  | true =>
    obtain ⟨x, hx, hx'⟩ | ⟨c, -, hc, hc'⟩ := exec_wordOp (s := s) (s' := withCfg u s) hi rfl
    · rw [hx, hx']
      rfl
    · exact rejected hc hc'
  | false =>
    cases i with
    | nop => rfl
    | clrerr => rfl
    | init =>
      cases hb : s.status.busy with
      | true => exact rejected (exec_init_busy hb) (exec_init_busy (s := withCfg u s) hb)
      | false =>
        rw [exec_init hb, exec_init (s := withCfg u s) hb]
        rfl
    | absorb b =>
      cases hb : s.status.busy with
      | true => exact rejected (exec_absorb_busy hb b) (exec_absorb_busy (s := withCfg u s) hb b)
      | false =>
        cases hm : s.status.msgOpen with
        | false => exact rejected (exec_absorb_sequence hb hm b) (exec_absorb_sequence (s := withCfg u s) hb hm b)
        | true =>
          by_cases hl : s.len.toNat + 8 ≤ 2 ^ 64 - 1
          · rw [exec_absorb hb hm hl, exec_absorb (s := withCfg u s) hb hm hl, absorbByte_withCfg]
            rfl
          · exact rejected (exec_absorb_inputTooLarge hb hm (by omega) b)
              (exec_absorb_inputTooLarge (s := withCfg u s) hb hm (Nat.not_le.1 hl) b)
    | final =>
      cases hb : s.status.busy with
      | true => exact rejected (exec_final_busy hb) (exec_final_busy (s := withCfg u s) hb)
      | false =>
        cases hm : s.status.msgOpen with
        | false => exact rejected (exec_final_sequence hb hm) (exec_final_sequence (s := withCfg u s) hb hm)
        | true =>
          rw [exec_final hb hm, exec_final (s := withCfg u s) hb hm]
          rfl
    | rotr _ | shr _ | add _ | ch | maj | bsig0 | bsig1 | ssig0 | ssig1 => cases hi

theorem engineStep_withCfg (u : Bool) (s : State) : engineStep (withCfg u s) = withCfg u (engineStep s) := by
  obtain ⟨hop, hresult, -⟩ := engineStep_frame s
  have h := engineStep_withRegisters s.op s.result u s
  rw [← hop, ← hresult] at h
  rw [withCfg, withCfg, ← h, hop, hresult]

theorem readReg_withCfg {r : Reg} (hcfg : r ≠ .cfg) (hhex : ∀ j, r ≠ .hex j) (u : Bool) (s : State) :
    readReg r (withCfg u s) = readReg r s := by
  cases r with
  | cfg => exact absurd rfl hcfg
  | hex j => exact absurd rfl (hhex j)
  | _ => rfl

/-- Settles O42: the commands and the engine commute with the change of `CFG.UPPER`, and only two kinds of register
show it. -/
theorem caseChangesNothingElse : Obligations.CaseChangesNothingElse := by
  unfold Obligations.CaseChangesNothingElse
  exact fun s u => ⟨fun i => exec_withCfg i u s, engineStep_withCfg u s, fun r hcfg hhex =>
    readReg_withCfg hcfg hhex u s⟩

/-- Settles O23: what every command leaves alone. -/
theorem commandsLeaveTheHostAlone : Obligations.CommandsLeaveTheHostAlone := by
  unfold Obligations.CommandsLeaveTheHostAlone
  intro i s t h
  obtain ⟨u, hu, hframe⟩ := exec_next i s
  obtain rfl : u = t := Host.Outcome.next.inj (hu.symm.trans h)
  exact hframe

end Sys2Proof.Machine

/-! ### The window (20_memory.md R50 to R55, 10_state.md R30, R43) -/

namespace Sys2Proof.Machine

/-! Which accesses reach a register (R52). -/

/-- An access is one to this device's register map. -/
def IsAccess (off width : Nat) : Prop := width = 4 ∧ off < 512 ∧ off % 4 = 0

/-- An access reaches a register, or is refused. -/
theorem regAt_cases (off width : Nat) :
    (∃ r : Reg, IsAccess off width ∧ width = 4 ∧ off = r.offset) ∨
    (¬ IsAccess off width ∧ ∃ e, regAt off width = .error e) := by
  by_cases h : IsAccess off width
  · obtain ⟨hw, hwin, hal⟩ := h
    obtain ⟨r, hr⟩ := exists_reg_of_offset hwin hal
    exact .inl ⟨r, ⟨hw, hwin, hal⟩, hw, hr.symm⟩
  · refine .inr ⟨h, ?_⟩
    cases hreg : regAt off width with
    | error e => exact ⟨e, rfl⟩
    | ok r =>
      obtain ⟨rfl, rfl⟩ := regAt_eq_ok.1 hreg
      exact absurd ⟨rfl, r.offset_lt⟩ h

theorem memRead_of_regAt_error {off width : Nat} {e : Refusal} (h : regAt off width = .error e) (s : State) :
    memRead off width s = .error e := by
  simp only [memRead, h]

theorem memWrite_of_regAt_error {off width : Nat} {e : Refusal} (h : regAt off width = .error e) (v : Word)
    (s : State) : memWrite off width v s = .refused e := by
  simp only [memWrite, h]

theorem writeReg_next (r : Reg) (v : Word) (s : State) : ∃ t, writeReg r v s = .next t := by
  cases r with
  | cmd =>
    obtain ⟨t, ht, -⟩ := command_next v s
    exact ⟨t, ht⟩
  | _ => exact ⟨_, rfl⟩

/-- Settles O44: an access that reaches a register is carried out, and any other is refused both ways. -/
theorem otherAccessesAreRefused : Obligations.OtherAccessesAreRefused := by
  unfold Obligations.OtherAccessesAreRefused
  intro off width v s
  obtain ⟨r, haccess, rfl, rfl⟩ | ⟨hforeign, e, he⟩ := regAt_cases off width
  · exact ⟨fun _ => ⟨⟨_, memRead_offset r s⟩, by rw [memWrite_offset]; exact writeReg_next r v s⟩,
      fun h => absurd haccess h⟩
  · exact ⟨fun h => absurd h hforeign, fun _ => ⟨e, memRead_of_regAt_error he s, memWrite_of_regAt_error he v s⟩⟩

/-- Settles O43: the register map and its inverse. -/
theorem everySlotIsOneRegister : Obligations.EverySlotIsOneRegister := by
  unfold Obligations.EverySlotIsOneRegister
  refine ⟨fun r => regAt_eq_ok.2 ⟨rfl, rfl⟩, fun off hwin hal => ?_⟩
  obtain ⟨r, hr⟩ := exists_reg_of_offset hwin hal
  exact ⟨r, hr, fun r' hr' => Reg.offset_injective (hr'.trans hr.symm)⟩

/-! Reads. -/

theorem lenHi_append_lenLo (len : BitVec 64) : (lenHi len ++ lenLo len : BitVec 64) = len := by
  rw [lenHi, lenLo, BitVec.extractLsb'_append_extractLsb'_eq_extractLsb' (by rfl)]
  exact BitVec.extractLsb'_eq_self

/-- Settles O45: each entry of the register map, and the two halves of `LEN` put together. -/
theorem windowReads : Obligations.WindowReads := by
  unfold Obligations.WindowReads
  intro s
  exact ⟨memRead_offset .id s, memRead_offset .cmd s, memRead_offset .cfg s, fun i => memRead_offset (.op i) s,
    memRead_offset .result s,
    ⟨_, _, memRead_offset .lenHi s, memRead_offset .lenLo s, lenHi_append_lenLo s.len⟩,
    fun i => memRead_offset (.reserved i) s, fun i => memRead_offset (.m i) s, fun i => memRead_offset (.h i) s,
    fun i => memRead_offset (.wv i) s, fun t => memRead_offset (.k t) s⟩

/-! The word of `STATUS`, bit by bit. -/

theorem getLsbD_flagWord (b : Bool) (i : Nat) : (flagWord b).getLsbD i = (decide (i = 0) && b) := by
  cases b
  · simp [flagWord]
  · simp only [flagWord, if_true, BitVec.ofNat_eq_ofNat, BitVec.getLsbD_one, Bool.and_true]
    simp

theorem getLsbD_statusWord (st : Status) {i : Nat} (hi : i < 32) : (statusWord st).getLsbD i =
    ((decide (i = 0) && st.busy) || (decide (i = 1) && st.done) || (decide (i = 2) && st.msgOpen) ||
      (decide (i = 3) && st.pend2) || (decide (i = 4) && st.finalPend) || (decide (i = 5) && st.err) ||
      (decide (i = 6) && st.multi) || (decide (8 ≤ i) && st.errCode.value.getLsbD (i - 8)) ||
      (decide (16 ≤ i) && st.round.val.testBit (i - 16))) := by
  have place (n : Nat) (b : Bool) : (flagWord b <<< n).getLsbD i = (decide (i = n) && b) := by
    rw [BitVec.getLsbD_shiftLeft, getLsbD_flagWord]
    by_cases h : i < n
    · simp [h, show i ≠ n by omega]
    · simp [h, hi, show (i - n = 0) = (i = n) from propext (by omega)]
  simp only [statusWord, BitVec.getLsbD_or, place, getLsbD_flagWord, BitVec.getLsbD_shiftLeft,
    BitVec.getLsbD_setWidth, BitVec.getLsbD_ofNat]
  have hlt (n : Nat) : i - n < 32 := by omega
  simp only [hi, hlt, decide_true, Bool.true_and, ← decide_not, Nat.not_lt]

/-- The bits above the flags: `ERRCODE` and `ROUND`. -/
theorem getLsbD_statusWord_high (st : Status) {j : Nat} (hj : 8 + j < 32) : (statusWord st).getLsbD (8 + j) =
    (st.errCode.value.getLsbD j || (decide (8 ≤ j) && st.round.val.testBit (j - 8))) := by
  have hflag {n : Nat} (hn : n < 8) : decide (8 + j = n) = false := decide_eq_false (by omega)
  have hround : decide (16 ≤ 8 + j) = decide (8 ≤ j) := decide_eq_decide.2 (by omega)
  rw [getLsbD_statusWord st hj, hround, Nat.add_sub_cancel_left, show 8 + j - 16 = j - 8 by omega]
  simp only [hflag, Nat.reduceLT, Bool.false_and, Bool.false_or, Nat.le_add_right, decide_true, Bool.true_and]

theorem extractLsb'_statusWord_errCode (st : Status) : (statusWord st).extractLsb' 8 4 = st.errCode.value := by
  apply BitVec.eq_of_getLsbD_eq
  intro i hi
  rw [BitVec.getLsbD_extractLsb', getLsbD_statusWord_high st (by omega)]
  simp [hi, show ¬ 8 ≤ i by omega]

/-- The word reads 0 between `ERRCODE` and `ROUND`. -/
theorem extractLsb'_statusWord_low (st : Status) : (statusWord st).extractLsb' 12 4 = 0 := by
  apply BitVec.eq_of_getLsbD_eq
  intro i hi
  rw [BitVec.getLsbD_extractLsb', show 12 + i = 8 + (4 + i) by omega, getLsbD_statusWord_high st (by omega),
    BitVec.getLsbD_of_ge _ (4 + i) (by omega)]
  simp [show ¬ 8 ≤ 4 + i by omega]

/-- The word reads 0 above `ROUND`, which is at most 64. -/
theorem extractLsb'_statusWord_high (st : Status) : (statusWord st).extractLsb' 23 9 = 0 := by
  apply BitVec.eq_of_getLsbD_eq
  intro i hi
  have hround : st.round.val.testBit (15 + i - 8) = false :=
    Nat.testBit_lt_two_pow (by
      have hpow : 2 ^ 7 ≤ 2 ^ (15 + i - 8) := Nat.pow_le_pow_right (by decide) (by omega)
      omega)
  rw [BitVec.getLsbD_extractLsb', show 23 + i = 8 + (15 + i) by omega, getLsbD_statusWord_high st (by omega),
    BitVec.getLsbD_of_ge _ (15 + i) (by omega), hround]
  simp

theorem extractLsb'_statusWord_round (st : Status) : (statusWord st).extractLsb' 16 7 = BitVec.ofNat 7 st.round.val := by
  apply BitVec.eq_of_getLsbD_eq
  intro i hi
  rw [BitVec.getLsbD_extractLsb', show 16 + i = 8 + (8 + i) by omega, getLsbD_statusWord_high st (by omega),
    BitVec.getLsbD_of_ge _ (8 + i) (by omega), Nat.add_sub_cancel_left, BitVec.getLsbD_ofNat]
  simp [hi]

/-- The numbers of the codes (60_exceptions.md R172). -/
theorem errCode_value_iff (c : ErrCode) :
    (c.value.toNat = 0 ↔ c = .none) ∧ (c.value.toNat = 1 ↔ c = .illegalCmd) ∧
    (c.value.toNat = 2 ↔ c = .shiftRange) ∧ (c.value.toNat = 3 ↔ c = .addCount) ∧
    (c.value.toNat = 4 ↔ c = .busy) ∧ (c.value.toNat = 5 ↔ c = .sequence) ∧
    (c.value.toNat = 6 ↔ c = .inputTooLarge) ∧ (c.value.toNat = 7 ↔ c = .malformedBlock) := by
  cases c <;> decide

/-- Settles O46: the bits of `statusWord`, and the numbers of the codes. -/
theorem statusReadLayout : Obligations.StatusReadLayout := by
  unfold Obligations.StatusReadLayout
  intro s
  have hround : (BitVec.ofNat 7 s.status.round.val).toNat = s.status.round.val :=
    Nat.mod_eq_of_lt (by omega)
  refine ⟨statusWord s.status, memRead_offset .status s, ?_, ?_, ?_, ?_, ?_, ?_, ?_, ?_,
    extractLsb'_statusWord_errCode _, extractLsb'_statusWord_low _, by rw [extractLsb'_statusWord_round, hround],
    extractLsb'_statusWord_high _, ?codes⟩
  case codes => rw [extractLsb'_statusWord_errCode]; exact errCode_value_iff _
  all_goals rw [getLsbD_statusWord _ (by decide)]; simp

/-! Writes. -/

/-- A write elsewhere than `CMD` has, twice, the effect of once (R55). -/
theorem writeReg_idempotent {r : Reg} (hr : r ≠ .cmd) {v : Word} {s t : State} (h : writeReg r v s = .next t) :
    writeReg r v t = .next t := by
  obtain ⟨rfl, -⟩ | ⟨rfl, rfl⟩ | ⟨i, rfl, rfl⟩ | ⟨hcmd, hcfg, hop, rfl⟩ := writeReg_cases h
  · exact absurd rfl hr
  · rfl
  · simp [writeReg]
  · exact writeReg_of_ne hcmd hcfg hop v t

theorem memWrite_idempotent {off width : Nat} (hoff : off ≠ 0x004) {v : Word} {s t : State}
    (h : memWrite off width v s = .next t) : memWrite off width v t = .next t := by
  obtain ⟨r, -, rfl, rfl⟩ | ⟨-, e, he⟩ := regAt_cases off width
  · rw [memWrite_offset] at h ⊢
    exact writeReg_idempotent (by rintro rfl; exact hoff rfl) h
  · rw [memWrite_of_regAt_error he] at h
    cases h

/-- A host read changes only what the host has read, bound and checked. -/
theorem hostStep_read {off width : Nat} {use : ReadUse} {s t : State}
    (h : hostStep (.read off width use) s = .next t) :
    ∃ x, memRead off width s = .ok x ∧ t = keepRead use x s := by
  simp only [hostStep] at h
  cases hx : memRead off width s with
  | error e => rw [hx] at h; cases h
  | ok x => rw [hx] at h; exact ⟨x, rfl, (Host.Outcome.next.inj h).symm⟩

theorem memWrite_absorb {b : Byte} {s : State} (hb : s.status.busy = false) (hm : s.status.msgOpen = true)
    (hl : s.len.toNat + 8 ≤ 2 ^ 64 - 1) (hk : s.len.toNat / 8 % 64 ≠ 63) :
    memWrite 0x004 4 (encode (.absorb b)) s = .next (storeByte b s) := by
  rw [memWrite_cmd, command_of_decode (decode_encode rfl), exec_absorb hb hm hl, absorbByte_eq_storeByte, if_neg hk]

/-- Settles O48: one lemma for the reads, one for the writes elsewhere, and two bytes stored. -/
theorem readsHaveNoSideEffect : Obligations.ReadsHaveNoSideEffect := by
  unfold Obligations.ReadsHaveNoSideEffect
  refine ⟨fun off width use s t h => ?reads, fun off width v s t hoff h => memWrite_idempotent hoff h,
    fun b s hb hm hk hl => ?absorbs⟩
  case reads =>
    obtain ⟨x, hx, rfl⟩ := hostStep_read h
    exact ⟨x, hx, by cases use <;> rfl⟩
  case absorbs =>
    have hlen : (storeByte b s).len.toNat = s.len.toNat + 8 := toNat_len_add_eight (by omega)
    refine ⟨storeByte b s, storeByte b (storeByte b s), memWrite_absorb hb hm (by omega) (by omega),
      memWrite_absorb hb hm (by omega) (by omega), ?_⟩
    have hlen' : (storeByte b (storeByte b s)).len.toNat = (storeByte b s).len.toNat + 8 :=
      toNat_len_add_eight (by omega)
    omega

/-- Settles O49: the reset state is a literal, and the two constants are read through the register map. -/
theorem resetValues : Obligations.ResetValues := by
  unfold Obligations.ResetValues
  exact ⟨by decide, rfl, by decide, rfl, rfl, by decide, by decide, rfl, rfl, memRead_offset .id _,
    fun t => memRead_offset (.k t) _⟩

end Sys2Proof.Machine

/-! ### Steps (20_memory.md R52, R58, 30_encoding.md R74, R77, 42_compressor.md R140, 70_reset_and_hazards.md R190) -/

namespace Sys2Proof.Machine

/-! No step faults, and only a foreign access is refused. -/

/-- The statement is an access that is not 4 bytes wide, not aligned or outside the window (R52). -/
def IsForeign (stmt : HostStmt) : Prop :=
  ∃ off width, ¬ IsAccess off width ∧
    ((∃ x, stmt = .write off width x) ∨ (∃ use, stmt = .read off width use) ∨
     (width = 4 ∧ ∃ mask value, stmt = .poll off mask value))

theorem hostStep_next_or_refused (stmt : HostStmt) (s : State) :
    (∃ t, hostStep stmt s = .next t) ∨ (IsForeign stmt ∧ ∃ e, hostStep stmt s = .refused e) := by
  cases stmt with
  | write off width x =>
    obtain ⟨r, -, rfl, rfl⟩ | ⟨hforeign, e, he⟩ := regAt_cases off width
    · refine .inl ?_
      simp only [hostStep, memWrite_offset]
      exact writeReg_next r _ s
    · exact .inr ⟨⟨off, width, hforeign, .inl ⟨x, rfl⟩⟩, e, memWrite_of_regAt_error he _ s⟩
  | read off width use =>
    obtain ⟨r, -, rfl, rfl⟩ | ⟨hforeign, e, he⟩ := regAt_cases off width
    · exact .inl ⟨keepRead use (readReg r s) s, by simp only [hostStep, memRead_offset]⟩
    · exact .inr ⟨⟨off, width, hforeign, .inr (.inl ⟨use, rfl⟩)⟩, e, by
        simp only [hostStep, memRead_of_regAt_error he]⟩
  | poll off mask value =>
    obtain ⟨r, -, -, rfl⟩ | ⟨hforeign, e, he⟩ := regAt_cases off 4
    · refine .inl ?_
      simp only [hostStep, Config.busBytes, memRead_offset]
      split
      · exact ⟨_, rfl⟩
      · exact ⟨_, rfl⟩
    · exact .inr ⟨⟨off, 4, hforeign, .inr (.inr ⟨rfl, mask, value, rfl⟩)⟩, e, by
        simp only [hostStep, Config.busBytes, memRead_of_regAt_error he]⟩
  | reset => exact .inl ⟨_, rfl⟩

/-- A step answers a next state, or is refused for the foreign access that is the host's next statement. -/
theorem step_next_or_refused (s : State) : (∃ t, step s = .next t) ∨
    ((∃ stmt rest, IsForeign stmt ∧ HostNext stmt rest s) ∧ ∃ e, step s = .refused e) := by
  cases hturn : engineTurn s with
  | true => exact .inl ⟨_, step_engine hturn⟩
  | false =>
    cases hp : s.prog with
    | nil => exact .inl ⟨_, step_idle hturn hp⟩
    | cons stmt rest =>
      rw [step_host ⟨hp, hturn⟩, hostMove]
      obtain ⟨t, ht⟩ | ⟨hforeign, e, he⟩ := hostStep_next_or_refused stmt (takeStmt rest s)
      · exact .inl ⟨armEngine s t, by rw [ht]; rfl⟩
      · exact .inr ⟨⟨stmt, rest, hforeign, hp, hturn⟩, e, by rw [he]; rfl⟩

/-- Settles O9: the commands by `exec_next`, the steps by their two outcomes. -/
theorem onlyForeignAccessesStop : Obligations.OnlyForeignAccessesStop := by
  unfold Obligations.OnlyForeignAccessesStop
  refine ⟨fun i s => ?_, fun s f h => ?_, fun s e h => ?_⟩
  · obtain ⟨t, ht, -⟩ := exec_next i s
    exact ⟨t, ht⟩
  · obtain ⟨t, ht⟩ | ⟨-, e, he⟩ := step_next_or_refused s
    · cases ht.symm.trans h
    · cases he.symm.trans h
  · obtain ⟨t, ht⟩ | ⟨⟨stmt, rest, ⟨off, width, hforeign, hstmt⟩, hnext⟩, -⟩ := step_next_or_refused s
    · cases ht.symm.trans h
    · refine ⟨rest, off, width, hforeign, ?_⟩
      obtain ⟨x, rfl⟩ | ⟨use, rfl⟩ | ⟨hw, mask, value, rfl⟩ := hstmt
      · exact .inl ⟨x, hnext⟩
      · exact .inr (.inl ⟨use, hnext⟩)
      · exact .inr (.inr ⟨hw, mask, value, hnext⟩)

/-! The reset event. -/

/-- Settles O50: the reset event as a host step. -/
theorem resetEventRestoresTheCore : Obligations.ResetEventRestoresTheCore := by
  unfold Obligations.ResetEventRestoresTheCore
  intro s rest hnext
  have hreset : SameCore (resetCore (takeStmt rest s)) State.reset := by constructor <;> rfl
  refine ⟨armEngine s (resetCore (takeStmt rest s)), ?_, (armEngine_sameCore s _).trans hreset,
    armEngine_prog _ _, armEngine_reads _ _, armEngine_vars _ _, armEngine_checks _ _, ?_⟩
  · rw [step_host hnext]
    rfl
  · rw [engineTurn, armEngine_status]
    rfl

/-! A command as a step. -/

/-- A host step that does not start the engine draws nothing. -/
theorem armEngine_of_not_started {s t : State} (h : s.status.busy = false → t.status.busy = false) :
    armEngine s t = t := by
  refine if_neg fun ⟨hb, ht⟩ => ?_
  rw [h hb] at ht
  cases ht

theorem mapNext_armEngine {s t : State} (h : s.status.busy = false → t.status.busy = false) :
    mapNext (armEngine s) (.next t) = .next t :=
  congrArg _ (armEngine_of_not_started h)

theorem step_writeCmd {x : HostVal} {rest : List HostStmt} {s : State} (h : HostNext (.write 0x004 4 x) rest s) :
    step s = mapNext (armEngine s) (command (valueOf x s) (takeStmt rest s)) := by
  have hcmd : hostStep (.write 0x004 4 x) (takeStmt rest s) = command (valueOf x s) (takeStmt rest s) :=
    hostStep_write_cmd x (takeStmt rest s)
  rw [step_host h, hostMove, hcmd]

/-- Placing a command puts it before the host, and taking it gives the state back. -/
theorem hostNext_placeCommand (v : Word) (s : State) :
    HostNext (.write 0x004 4 (.lit v)) s.prog (placeCommand v s) ∧ takeStmt s.prog (placeCommand v s) = s := by
  cases hb : s.status.busy <;> simp [HostNext, placeCommand, takeStmt, engineTurn, hb, Reg.offset, Config.busBytes]

/-- Settles O51: a write to `CMD` as a host step, and what the model adds to the command. -/
theorem stepRunsTheDecodedCommand : Obligations.StepRunsTheDecodedCommand := by
  unfold Obligations.StepRunsTheDecodedCommand
  refine ⟨fun s x rest i h hd => ?command, fun s x rest why h hd => ?illegal, fun s w hw => ?fetch,
    fun s rest => ⟨(takeStmt_sameCore rest s).symm, rfl, rfl⟩,
    fun s t => ⟨(armEngine_sameCore s t).symm, armEngine_prog t s, armEngine_reads t s, armEngine_vars t s,
      armEngine_checks t s⟩⟩
  case command => rw [step_writeCmd h, command_of_decode hd]
  case illegal =>
    obtain ⟨hbusy, -⟩ := reject_flags .illegalCmd (takeStmt rest s)
    rw [step_writeCmd h, command_of_illegal hd]
    exact mapNext_armEngine fun hb => hbusy.trans hb
  case fetch =>
    obtain ⟨hnext, htake⟩ := hostNext_placeCommand (BitVec.ofNat 32 w) s
    rw [State.withFetchWord, Nat.mod_eq_of_lt hw, step_writeCmd hnext, htake]
    rfl

/-! The other statements as steps. -/

theorem readReg_sameCore {s t : State} (h : SameCore s t) (r : Reg) : readReg r s = readReg r t := by
  obtain ⟨op, result, m, len, hh, wv, w, status, cfg⟩ := h
  cases r <;> simp only [readReg, *]

/-- Only a write to `CMD` can start the engine. -/
theorem writeReg_status {r : Reg} (hr : r ≠ .cmd) {v : Word} {s t : State} (h : writeReg r v s = .next t) :
    t.status = s.status := by
  obtain ⟨rfl, -⟩ | ⟨-, rfl⟩ | ⟨i, -, rfl⟩ | ⟨-, -, -, rfl⟩ := writeReg_cases h
  · exact absurd rfl hr
  · rfl
  · rfl
  · rfl

theorem step_wr {r : Reg} (hr : r ≠ .cmd) {x : HostVal} {rest : List HostStmt} {s : State}
    (h : HostNext (wr r x) rest s) : step s = writeReg r (valueOf x s) (takeStmt rest s) := by
  have hwrite : hostStep (wr r x) (takeStmt rest s) = writeReg r (valueOf x s) (takeStmt rest s) :=
    memWrite_offset r _ _
  obtain ⟨t, ht⟩ := writeReg_next r (valueOf x s) (takeStmt rest s)
  have hstatus : t.status = (takeStmt rest s).status := writeReg_status hr ht
  rw [step_host h, hostMove, hwrite, ht]
  exact mapNext_armEngine fun hb => by rw [hstatus, takeStmt_status, hb]

theorem step_read {r : Reg} {use : ReadUse} {rest : List HostStmt} {s : State}
    (h : HostNext (.read r.offset Config.busBytes use) rest s) :
    step s = .next (keepRead use (readReg r s) (takeStmt rest s)) := by
  rw [step_host h, hostMove]
  simp only [hostStep, Config.busBytes, memRead_offset, readReg_sameCore (takeStmt_sameCore rest s)]
  exact mapNext_armEngine fun hb => by rw [keepRead_status, takeStmt_status, hb]

theorem step_poll {r : Reg} {mask value : HostVal} {rest : List HostStmt} {s : State}
    (h : HostNext (.poll r.offset mask value) rest s) :
    step s = .next (if readReg r s &&& valueOf mask s = valueOf value s then takeStmt rest s
      else { takeStmt rest s with prog := s.prog }) := by
  have hp := h.1
  rw [step_host h, hostMove]
  simp only [hostStep, Config.busBytes, memRead_offset, valueOf_takeStmt,
    readReg_sameCore (takeStmt_sameCore rest s), hp]
  split <;> exact mapNext_armEngine fun hb => hb

/-- Settles O52: one lemma a form of statement. -/
theorem stepRunsHostStatements : Obligations.StepRunsHostStatements := by
  unfold Obligations.StepRunsHostStatements
  exact fun s rest r => ⟨fun x hr h => step_wr hr h, fun h => step_read h,
    fun mask value h hv => by rw [step_poll h, if_pos hv], fun mask value h hv => by rw [step_poll h, if_neg hv]⟩

/-! What a name stands for. -/

theorem hostStep_vars {stmt : HostStmt} {s t : State} (h : hostStep stmt s = .next t)
    (hbind : ∀ r n, stmt ≠ rdBind r n) : t.vars = s.vars := by
  obtain ⟨x, -, hc⟩ | ⟨x, -, rfl⟩ | ⟨i, x, -, rfl⟩ | ⟨r, x, -, -, -, -, rfl⟩ | ⟨r, use, rfl, rfl⟩ |
    ⟨r, m, v, -, rfl⟩ | ⟨-, rfl⟩ := hostStep_cases h
  · obtain ⟨u, hu, -, -, hvars, -⟩ := command_next (valueOf x s) s
    obtain rfl : u = t := Host.Outcome.next.inj (hu.symm.trans hc)
    exact hvars
  · rfl
  · rfl
  · rfl
  · cases use with
    | bind n => exact absurd rfl (hbind r n)
    | keep => rfl
    | check v => rfl
  · split <;> rfl
  · rfl

theorem step_vars {s t : State} (h : step s = .next t) (hbind : ∀ r n rest, ¬ HostNext (rdBind r n) rest s) :
    t.vars = s.vars := by
  obtain ⟨-, rfl⟩ | ⟨stmt, rest, t', hnext, hs, rfl⟩ | ⟨-, -, rfl⟩ := step_cases h
  · exact (engineMove_sameHost s).vars
  · rw [armEngine_vars, hostStep_vars hs fun r n => by rintro rfl; exact hbind r n rest hnext, takeStmt_vars]
  · rfl

/-- Settles O60: the two forms of `rd` that carry Words, and the steps that bind nothing. -/
theorem hostNamesCarryWords : Obligations.HostNamesCarryWords := by
  unfold Obligations.HostNamesCarryWords
  refine ⟨fun s rest r n h => ?bind, fun s rest r x h => ?check, fun s v => rfl, fun s t m h hbind => ?other⟩
  case bind =>
    refine ⟨_, step_read h, keepRead_prog _ _ _, (keepRead_sameCore _ _ _).trans (takeStmt_sameCore rest s),
      keepRead_reads _ _ _, rfl, ?_, fun m hm => ?_⟩
    · rw [valueOf_bind, if_pos rfl]
    · rw [valueOf_bind, if_neg hm, valueOf_takeStmt]
  case check =>
    refine ⟨_, step_read h, keepRead_prog _ _ _, (keepRead_sameCore _ _ _).trans (takeStmt_sameCore rest s),
      keepRead_reads _ _ _, rfl, _, rfl, ?_⟩
    rw [valueOf_takeStmt, decide_eq_true_iff]
  case other => exact valueOf_congr _ (step_vars h hbind)

/-! Whose step it is. -/

/-- Settles O53: the turn as `engineTurn` says, and what a draw changes. -/
theorem eitherAgentMayMove : Obligations.EitherAgentMayMove := by
  unfold Obligations.EitherAgentMayMove
  refine fun s => ⟨fun hb hp => step_engine ?_, fun hb => step_engine ?_, fun stmt rest n hp => step_host ⟨hp, ?_⟩,
    fun stmt rest hb hp => step_host (hostNext_of_idle hb hp), fun hb hp => step_idle (by simp [engineTurn, hb]) hp,
    (drawSlack_sameCore s).symm, drawSlack_prog s, drawSlack_reads s, drawSlack_vars s, drawSlack_checks s,
    fun n rest hl => ?_⟩
  · simp [engineTurn, hb, hp]
  · simp [engineTurn, hb]
  · simp [engineTurn, hp]
  · simp [drawSlack, hl]

/-! While the engine is busy. -/

/-- A command does not stop the engine. -/
theorem exec_busy {i : Instr} {s t : State} (h : exec i s = .next t) (hb : s.status.busy = true) :
    t.status.busy = true := by
  obtain ⟨c, -, rfl⟩ | ⟨-, -, -, -, rfl⟩ | ⟨-, x, rfl⟩ | ⟨-, rfl⟩ | ⟨-, rfl⟩ | ⟨-, hidle, -⟩ | ⟨b, -, hidle, -⟩ |
    ⟨-, hidle, -⟩ := exec_cases h
  · rw [(reject_flags c s).1, hb]
  · rw [(reject_flags _ s).1, hb]
  · exact hb
  · exact hb
  · exact hb
  all_goals exact absurd (hidle.symm.trans hb) Bool.false_ne_true

theorem command_busy {v : Word} {s t : State} (h : command v s = .next t) (hb : s.status.busy = true) :
    t.status.busy = true := by
  obtain ⟨why, -, e⟩ | ⟨i, -, e⟩ := command_cases v s
  · obtain rfl := Host.Outcome.next.inj (e.symm.trans h)
    rw [(reject_flags _ s).1, hb]
  · exact exec_busy (e.symm.trans h) hb

theorem hostStep_slack {stmt : HostStmt} {s t : State} (h : hostStep stmt s = .next t) : t.slack = s.slack := by
  obtain ⟨x, -, hc⟩ | ⟨x, -, rfl⟩ | ⟨i, x, -, rfl⟩ | ⟨r, x, -, -, -, -, rfl⟩ | ⟨r, use, -, rfl⟩ |
    ⟨r, m, v, -, rfl⟩ | ⟨-, rfl⟩ := hostStep_cases h
  · obtain ⟨u, hu, -, -, -, -, -, hslack, -⟩ := command_next (valueOf x s) s
    obtain rfl : u = t := Host.Outcome.next.inj (hu.symm.trans hc)
    exact hslack
  · rfl
  · rfl
  · rfl
  · exact keepRead_slack _ _ _
  · split <;> rfl
  · rfl

theorem hostStep_busy {stmt : HostStmt} {s t : State} (h : hostStep stmt s = .next t) (hb : s.status.busy = true) :
    t.status.busy = true ∨ stmt = .reset := by
  obtain ⟨x, -, hc⟩ | ⟨x, -, rfl⟩ | ⟨i, x, -, rfl⟩ | ⟨r, x, -, -, -, -, rfl⟩ | ⟨r, use, -, rfl⟩ |
    ⟨r, m, v, -, rfl⟩ | ⟨hreset, -⟩ := hostStep_cases h
  · exact .inl (command_busy hc hb)
  · exact .inl hb
  · exact .inl hb
  · exact .inl hb
  · exact .inl (by rw [keepRead_status, hb])
  · exact .inl (by split <;> exact hb)
  · exact .inr hreset

/-- Settles O54: a host step of a busy core takes one of the steps allowed, and no statement but reset stops the
engine. -/
theorem hostCannotHoldTheEngine : Obligations.HostCannotHoldTheEngine := by
  unfold Obligations.HostCannotHoldTheEngine
  intro s t hb hturn h
  obtain ⟨hengine, -⟩ | ⟨stmt, rest, t', hnext, hs, rfl⟩ | ⟨-, hp, -⟩ := step_cases h
  · exact absurd (hturn.symm.trans hengine) Bool.false_ne_true
  · have hpos : s.slack ≠ 0 := by
      obtain ⟨hp, -⟩ := hnext
      rw [engineTurn_of_busy hb (by simp [hp])] at hturn
      exact of_decide_eq_false hturn
    rw [armEngine_of_not_started fun hidle => absurd (hidle.symm.trans hb) Bool.false_ne_true]
    refine ⟨?slack, ?busy⟩
    case slack =>
      rw [hostStep_slack hs, takeStmt_slack, if_pos hb]
      omega
    case busy => exact (hostStep_busy hs hb).imp_right fun (e : stmt = .reset) => ⟨rest, e ▸ hnext⟩
  · rw [engineTurn, hb, hp] at hturn
    cases hturn

end Sys2Proof.Machine

/-! ### Who writes what (10_state.md R21 to R41, 60_exceptions.md R170 to R178) -/

namespace Sys2Proof.Machine

/-! The error record. -/

theorem Status.recordError_first {st : Status} (h : st.err = false) (c : ErrCode) :
    st.recordError c = { st with err := true, errCode := c } := if_pos h

theorem Status.recordError_later {st : Status} (h : st.err = true) (c : ErrCode) :
    st.recordError c = { st with multi := true } := by
  simp [Status.recordError, h]

theorem reject_inputTooLarge (s : State) :
    reject .inputTooLarge s = { s with status := (s.status.recordError .inputTooLarge).closeMessage } := rfl

/-- Settles O7: the two cases of the record, with and without the message closed. -/
theorem rejectionRecordsTheFirstCode : Obligations.RejectionRecordsTheFirstCode := by
  unfold Obligations.RejectionRecordsTheFirstCode
  refine fun c s => ⟨fun hc => ⟨fun h => ?_, fun h => ?_⟩, fun h => ?_, fun h => ?_⟩
  · rw [reject_eq_recordError hc, Status.recordError_first h]
  · rw [reject_eq_recordError hc, Status.recordError_later h]
  · rw [reject_inputTooLarge, Status.recordError_first h]
    rfl
  · rw [reject_inputTooLarge, Status.recordError_later h]
    rfl

/-- `ERR`, `MULTI` and `ERRCODE`. -/
def Status.record (st : Status) : Bool × Bool × ErrCode := (st.err, st.multi, st.errCode)

theorem record_of_sameCore {s t : State} (h : SameCore t s) : t.status.record = s.status.record := by
  rw [h.status]

theorem exec_record {i : Instr} {s t : State} (h : exec i s = .next t) :
    t.status.record = s.status.record ∨ (∃ c, t.status.record = (reject c s).status.record) ∨
    (i = .clrerr ∧ t.status.record = (false, false, .none)) := by
  obtain ⟨c, -, rfl⟩ | ⟨-, -, -, -, rfl⟩ | ⟨-, x, rfl⟩ | ⟨-, rfl⟩ | ⟨rfl, rfl⟩ | ⟨-, -, rfl⟩ |
    ⟨b, -, -, -, -, rfl⟩ | ⟨-, -, -, rfl⟩ := exec_cases h
  · exact .inr (.inl ⟨c, rfl⟩)
  · exact .inr (.inl ⟨_, rfl⟩)
  · exact .inl rfl
  · exact .inl rfl
  · exact .inr (.inr ⟨rfl, rfl⟩)
  · exact .inl rfl
  · obtain ⟨herr, hmulti, hcode⟩ := absorbByte_record b s
    exact .inl (by rw [Status.record, herr, hmulti, hcode]; rfl)
  · exact .inl rfl

/-- What a step does to the record: nothing, or a rejection of the word it writes to `CMD`, or it clears it. -/
theorem step_record {s t : State} (h : step s = .next t) :
    t.status.record = s.status.record ∨
    ((∃ v, HostWritesCmd v s) ∧ ∃ c, t.status.record = (reject c s).status.record) ∨
    (((∃ v, HostWritesCmd v s) ∧ HostCommands .clrerr s ∨ HostResets s) ∧
      t.status.record = (false, false, .none)) := by
  obtain ⟨-, hc⟩ | ⟨hr, hc⟩ | ⟨v, why, hv, -, hc⟩ | ⟨v, i, u, hv, hd, hu, hc⟩ | ⟨v, -, hc⟩ | ⟨i, v, -, hc⟩ | hc :=
    step_core_cases h <;> rw [record_of_sameCore hc]
  · obtain ⟨herr, hmulti, hcode⟩ := engineStep_record s
    exact .inl (by rw [Status.record, herr, hmulti, hcode]; rfl)
  · exact .inr (.inr ⟨.inr hr, rfl⟩)
  · exact .inr (.inl ⟨⟨v, hv⟩, _, rfl⟩)
  · obtain hkeep | hrej | ⟨rfl, hclear⟩ := exec_record hu
    · exact .inl hkeep
    · exact .inr (.inl ⟨⟨v, hv⟩, hrej⟩)
    · exact .inr (.inr ⟨.inl ⟨⟨v, hv⟩, v, hv, hd⟩, hclear⟩)
  · exact .inl rfl
  · exact .inl rfl
  · exact .inl rfl

/-- Settles O8: a rejection sets bits of the record and keeps its code, and only `CLRERR` and reset clear it. -/
theorem errorRecordChangesOnlyByCommands : Obligations.ErrorRecordChangesOnlyByCommands := by
  unfold Obligations.ErrorRecordChangesOnlyByCommands
  intro s t h
  obtain hkeep | ⟨hv, c, hrej⟩ | ⟨hwho, hclear⟩ := step_record h
  · obtain ⟨herr, hmulti, hcode⟩ : t.status.err = s.status.err ∧ t.status.multi = s.status.multi ∧
      t.status.errCode = s.status.errCode := by simpa [Status.record] using hkeep
    exact ⟨fun hne => absurd hkeep hne, by simp_all, by simp_all, fun _ _ => hcode⟩
  · obtain ⟨herr, hmulti, hcode⟩ : t.status.err = (reject c s).status.err ∧
      t.status.multi = (reject c s).status.multi ∧ t.status.errCode = (reject c s).status.errCode := by
      simpa [Status.record] using hrej
    rw [reject_multi] at hmulti
    rw [reject_errCode] at hcode
    obtain ⟨-, -, -, -, -, hset⟩ := reject_flags c s
    rw [hset] at herr
    exact ⟨fun _ => .inl hv, by simp [herr], by simp_all, by simp_all⟩
  · obtain ⟨herr, -, -⟩ : t.status.err = false ∧ t.status.multi = false ∧ t.status.errCode = .none := by
      simpa [Status.record] using hclear
    have hcleared : HostCommands .clrerr s ∨ HostResets s := hwho.imp_left And.right
    exact ⟨fun _ => hwho.imp_left And.left, fun _ _ => hcleared, fun _ _ => hcleared, by simp [herr]⟩

/-! The registers. -/

theorem engineStep_registers (s : State) :
    ((engineStep s).m ≠ s.m → s.status.round = 64 ∧ s.status.pend2 = true) ∧
    ((engineStep s).h ≠ s.h → s.status.round = 64) := by
  obtain ⟨t, -, e⟩ | ⟨hr, e⟩ := engineStep_cases s
  · rw [e]
    exact ⟨fun hm => absurd rfl hm, fun hh => absurd rfl hh⟩
  · refine ⟨fun hm => ⟨hr, by_contra fun hp => hm ?_⟩, fun _ => hr⟩
    rw [e, feedForward_m, if_neg hp]

/-- Which command writes which register. -/
theorem exec_registers {i : Instr} {s t : State} (h : exec i s = .next t) :
    t.op = s.op ∧ t.cfgUpper = s.cfgUpper ∧ (t.result ≠ s.result → isWordOp i = true) ∧
    (t.m ≠ s.m → (∃ b, i = .absorb b) ∨ i = .final) ∧ (t.len ≠ s.len → i = .init ∨ ∃ b, i = .absorb b) ∧
    (t.h ≠ s.h → i = .init) ∧ (t.wv ≠ s.wv → (∃ b, i = .absorb b) ∨ i = .final) ∧
    (t.w ≠ s.w → (∃ b, i = .absorb b) ∨ i = .final) := by
  obtain ⟨c, -, rfl⟩ | ⟨-, -, -, -, rfl⟩ | ⟨hi, x, rfl⟩ | ⟨-, rfl⟩ | ⟨-, rfl⟩ | ⟨rfl, -, rfl⟩ |
    ⟨b, rfl, -, -, -, rfl⟩ | ⟨rfl, -, -, rfl⟩ := exec_cases h <;> simp [*]

/-- Settles O55: the engine's registers, the command's, and the two that the host writes itself. -/
theorem registerWriters : Obligations.RegisterWriters := by
  unfold Obligations.RegisterWriters
  intro s t h hnr
  obtain ⟨hturn, hc⟩ | ⟨hr, -⟩ | ⟨v, why, -, -, hc⟩ | ⟨v, i, u, hv, hd, hu, hc⟩ | ⟨v, hv, hc⟩ | ⟨i, v, hv, hc⟩ | hc :=
    step_core_cases h
  case inr.inl => exact absurd hr hnr
  all_goals
    obtain ⟨op, result, m, len, hh, wv, w, -, cfg⟩ := hc
    rw [op, result, m, len, hh, wv, w, cfg]
  case inl =>
    obtain ⟨hop, hresult, hlen, hcfg, -⟩ := engineStep_frame s
    obtain ⟨hm, hhash⟩ := engineStep_registers s
    exact ⟨fun hne => absurd hop hne, fun hne => absurd hresult hne,
      fun hne => .inr (.inr ⟨⟨hturn, (hm hne).1⟩, (hm hne).2⟩), fun hne => absurd hlen hne,
      fun hne => .inr ⟨hturn, hhash hne⟩, fun _ => .inl hturn, fun _ => .inl hturn, fun hne => absurd hcfg hne⟩
  case inr.inr.inr.inl =>
    have hgives {j : Instr} (e : i = j) : HostCommands j s := ⟨v, hv, e ▸ hd⟩
    have hgivesByte (e : ∃ b, i = .absorb b) : ∃ b, HostCommands (.absorb b) s := e.imp fun _ => hgives
    obtain ⟨hop, hcfg, hresult, hm, hlen, hhash, hwv, hw⟩ := exec_registers hu
    exact ⟨fun hne => absurd hop hne, fun hne => ⟨i, hresult hne, hgives rfl⟩,
      fun hne => (hm hne).imp hgivesByte fun e => .inl (hgives e), fun hne => (hlen hne).imp hgives hgivesByte,
      fun hne => .inl (hgives (hhash hne)), fun hne => .inr ((hwv hne).imp hgivesByte hgives),
      fun hne => .inr ((hw hne).imp hgivesByte hgives), fun hne => absurd hcfg hne⟩
  case inr.inr.inl => simp
  case inr.inr.inr.inr.inl => simpa using fun _ => ⟨v, hv, rfl⟩
  case inr.inr.inr.inr.inr.inl => simpa using fun _ => ⟨i, v, hv, rfl⟩
  case inr.inr.inr.inr.inr.inr => simp

/-! The flags. -/

/-- The two words of `STATUS` agree on all but the error record. -/
structure SameFlags (st st' : Status) : Prop where
  busy : st.busy = st'.busy
  done : st.done = st'.done
  msgOpen : st.msgOpen = st'.msgOpen
  pend2 : st.pend2 = st'.pend2
  finalPend : st.finalPend = st'.finalPend
  round : st.round = st'.round

theorem SameFlags.refl (st : Status) : SameFlags st st := ⟨rfl, rfl, rfl, rfl, rfl, rfl⟩

theorem recordError_sameFlags (st : Status) (c : ErrCode) : SameFlags (st.recordError c) st := by
  constructor <;> simp

/-- What a command does to the flags (R31 to R37). -/
theorem exec_flags {i : Instr} {s t : State} (h : exec i s = .next t) :
    SameFlags t.status s.status ∨
    ((∃ b, i = .absorb b) ∧ 2 ^ 64 - 1 < s.len.toNat + 8 ∧ SameFlags t.status s.status.closeMessage) ∨
    (i = .init ∧ t.status = s.status.openMessage) ∨ ((∃ b, i = .absorb b) ∧ t.status = s.status.startBlock) ∨
    (i = .final ∧ t.status = (s.status.finalise (decide (56 ≤ s.len.toNat / 8 % 64))).startBlock) := by
  obtain ⟨c, hc, rfl⟩ | ⟨hi, -, -, hl, rfl⟩ | ⟨-, x, rfl⟩ | ⟨-, rfl⟩ | ⟨-, rfl⟩ | ⟨hi, -, rfl⟩ |
    ⟨b, hi, -, -, -, rfl⟩ | ⟨hi, -, -, rfl⟩ := exec_cases h
  · refine .inl ?_
    rw [reject_status c s (by rintro rfl; simp at hc)]
    exact recordError_sameFlags _ _
  · refine .inr (.inl ⟨hi, hl, ?_⟩)
    constructor <;> simp
  · exact .inl (.refl _)
  · exact .inl (.refl _)
  · exact .inl ⟨rfl, rfl, rfl, rfl, rfl, rfl⟩
  · exact .inr (.inr (.inl ⟨hi, rfl⟩))
  · rw [absorbByte_status]
    split
    · exact .inr (.inr (.inr (.inl ⟨⟨b, hi⟩, rfl⟩)))
    · exact .inl (.refl _)
  · refine .inr (.inr (.inr (.inr ⟨hi, ?_⟩)))
    rw [← bytePos_val]
    rfl

/-- What a step other than reset does to the flags: a round, the two ends of a Block, the four commands that write
flags, or nothing. -/
theorem step_flags {s t : State} (h : step s = .next t) (hnr : ¬ HostResets s) :
    (engineTurn s = true ∧ ∃ r : Fin 64, s.status.round = r.castSucc ∧
      t.status = { s.status with round := r.succ }) ∨
    (FeedForwardStep s ∧ s.status.pend2 = true ∧
      t.status = { s.status with pend2 := false, round := 0, busy := true }) ∨
    (FeedForwardStep s ∧ s.status.pend2 = false ∧ t.status = s.status.finishBlock) ∨
    ((∃ b, HostCommands (.absorb b) s) ∧ 2 ^ 64 - 1 < s.len.toNat + 8 ∧ SameFlags t.status s.status.closeMessage) ∨
    (HostCommands .init s ∧ t.status = s.status.openMessage) ∨
    ((∃ b, HostCommands (.absorb b) s) ∧ t.status = s.status.startBlock) ∨
    (HostCommands .final s ∧ t.status = (s.status.finalise (decide (56 ≤ s.len.toNat / 8 % 64))).startBlock) ∨
    SameFlags t.status s.status := by
  obtain ⟨hturn, hc⟩ | ⟨hr, -⟩ | ⟨v, why, -, -, hc⟩ | ⟨v, i, u, hv, hd, hu, hc⟩ | ⟨v, -, hc⟩ | ⟨i, v, -, hc⟩ | hc :=
    step_core_cases h
  · rw [hc.status]
    obtain ⟨r, hr, e⟩ | ⟨hr, e⟩ := engineStep_cases s <;> rw [e]
    · exact .inl ⟨hturn, r, hr, rfl⟩
    · rw [feedForward_status]
      cases hp : s.status.pend2 with
      | true => exact .inr (.inl ⟨⟨hturn, hr⟩, rfl, rfl⟩)
      | false => exact .inr (.inr (.inl ⟨⟨hturn, hr⟩, rfl, rfl⟩))
  · exact absurd hr hnr
  · rw [hc.status]
    exact .inr (.inr (.inr (.inr (.inr (.inr (.inr (recordError_sameFlags s.status .illegalCmd)))))))
  · have hgives {j : Instr} (e : i = j) : HostCommands j s := ⟨v, hv, e ▸ hd⟩
    have hgivesByte (e : ∃ b, i = .absorb b) : ∃ b, HostCommands (.absorb b) s := e.imp fun _ => hgives
    rw [hc.status]
    obtain hsame | ⟨hi, hl, hclose⟩ | ⟨hi, hopen⟩ | ⟨hi, hstart⟩ | ⟨hi, hfinal⟩ := exec_flags hu
    · exact .inr (.inr (.inr (.inr (.inr (.inr (.inr hsame))))))
    · exact .inr (.inr (.inr (.inl ⟨hgivesByte hi, hl, hclose⟩)))
    · exact .inr (.inr (.inr (.inr (.inl ⟨hgives hi, hopen⟩))))
    · exact .inr (.inr (.inr (.inr (.inr (.inl ⟨hgivesByte hi, hstart⟩)))))
    · exact .inr (.inr (.inr (.inr (.inr (.inr (.inl ⟨hgives hi, hfinal⟩))))))
  all_goals
    rw [hc.status]
    exact .inr (.inr (.inr (.inr (.inr (.inr (.inr (.refl _)))))))

/-- A flag that is kept is not set. -/
theorem not_set_of_eq {a b : Bool} (e : b = a) {P : Prop} (ha : a = false) (hb : b = true) : P :=
  absurd (ha.symm.trans (e.symm.trans hb)) Bool.false_ne_true

/-- A flag that is kept is not cleared. -/
theorem not_cleared_of_eq {a b : Bool} (e : b = a) {P : Prop} (ha : a = true) (hb : b = false) : P :=
  absurd (hb.symm.trans (e.trans ha)) Bool.false_ne_true

theorem finishBlock_done {st : Status} (h : st.finalPend = false) : st.finishBlock.done = st.done := by
  rw [Status.finishBlock_of_not_finalPend h]

theorem finishBlock_done_of_finalPend {st : Status} (h : st.finalPend = true) : st.finishBlock.done = true := by
  rw [Status.finishBlock_of_finalPend h]

/-- Settles O56: each kind of step by the flags it writes. -/
theorem flagWriters : Obligations.FlagWriters := by
  unfold Obligations.FlagWriters
  intro s t h hnr
  obtain ⟨hturn, r, hr, hs⟩ | ⟨hff, hp, hs⟩ | ⟨hff, hp, hs⟩ | ⟨hgives, hl, busy, done, msgOpen, pend2, finalPend, round⟩ |
    ⟨hgives, hs⟩ | ⟨hgives, hs⟩ | ⟨hgives, hs⟩ | ⟨busy, done, msgOpen, pend2, finalPend, round⟩ := step_flags h hnr
  case inl =>
    rw [hs, hr]
    exact ⟨not_set_of_eq rfl, not_cleared_of_eq rfl, not_set_of_eq rfl, not_cleared_of_eq rfl, not_set_of_eq rfl,
      not_cleared_of_eq rfl, not_set_of_eq rfl, not_cleared_of_eq rfl, not_set_of_eq rfl, not_cleared_of_eq rfl,
      fun _ => .inl ⟨hturn, rfl⟩⟩
  case inr.inl =>
    rw [hs]
    exact ⟨not_set_of_eq (engineTurn_busy hff.1).symm, nofun, not_set_of_eq rfl, not_cleared_of_eq rfl,
      not_set_of_eq rfl, not_cleared_of_eq rfl, nofun, fun _ _ => .inl hff, not_set_of_eq rfl, not_cleared_of_eq rfl,
      fun _ => .inr ⟨rfl, rfl⟩⟩
  case inr.inr.inl =>
    have hdone (hd : s.status.done = true) : s.status.finishBlock.done = true := by
      cases hf : s.status.finalPend with
      | true => exact finishBlock_done_of_finalPend hf
      | false => rw [finishBlock_done hf, hd]
    rw [hs]
    refine ⟨by simp, fun _ _ => ⟨hff, hp⟩, fun hd hd' => ⟨hff, hp, ?_⟩,
      fun hd => not_cleared_of_eq (hdone hd) rfl, not_set_of_eq (Status.finishBlock_msgOpen _),
      not_cleared_of_eq (Status.finishBlock_msgOpen _), not_set_of_eq (Status.finishBlock_pend2 _),
      not_cleared_of_eq (Status.finishBlock_pend2 _), by simp,
      fun hf _ => .inl ⟨hff, hp, finishBlock_done_of_finalPend hf⟩, fun hne => absurd (Status.finishBlock_round _) hne⟩
    exact by_contra fun hf => not_set_of_eq (finishBlock_done (Bool.eq_false_iff.2 hf)) hd hd'
  case inr.inr.inr.inl =>
    exact ⟨not_set_of_eq busy, not_cleared_of_eq busy, not_set_of_eq done, not_cleared_of_eq done,
      fun _ hm => absurd (msgOpen.symm.trans hm) Bool.false_ne_true, fun _ _ => .inr ⟨hgives, hl⟩,
      not_set_of_eq pend2, not_cleared_of_eq pend2, not_set_of_eq finalPend, not_cleared_of_eq finalPend,
      fun hne => absurd round hne⟩
  case inr.inr.inr.inr.inl =>
    rw [hs]
    exact ⟨not_set_of_eq rfl, not_cleared_of_eq rfl, nofun, fun _ _ => hgives, fun _ _ => hgives, nofun, nofun,
      fun _ _ => .inr (.inl hgives), nofun, fun _ _ => .inr hgives, fun hne => absurd rfl hne⟩
  case inr.inr.inr.inr.inr.inl =>
    rw [hs]
    exact ⟨fun _ _ => .inl hgives, nofun, not_set_of_eq rfl, not_cleared_of_eq rfl, not_set_of_eq rfl,
      not_cleared_of_eq rfl, not_set_of_eq rfl, not_cleared_of_eq rfl, not_set_of_eq rfl, not_cleared_of_eq rfl,
      fun _ => .inr ⟨rfl, rfl⟩⟩
  case inr.inr.inr.inr.inr.inr.inl =>
    rw [hs]
    exact ⟨fun _ _ => .inr hgives, nofun, not_set_of_eq rfl, not_cleared_of_eq rfl, nofun, fun _ _ => .inl hgives,
      fun _ hp => ⟨hgives, of_decide_eq_true hp⟩, fun _ _ => .inr (.inr hgives), fun _ _ => hgives, nofun,
      fun _ => .inr ⟨rfl, rfl⟩⟩
  case inr.inr.inr.inr.inr.inr.inr =>
    exact ⟨not_set_of_eq busy, not_cleared_of_eq busy, not_set_of_eq done, not_cleared_of_eq done,
      not_set_of_eq msgOpen, not_cleared_of_eq msgOpen, not_set_of_eq pend2, not_cleared_of_eq pend2,
      not_set_of_eq finalPend, not_cleared_of_eq finalPend, fun hne => absurd round hne⟩

end Sys2Proof.Machine

/-! ### The constants from the primes (42_compressor.md R135, R136) -/

namespace Sys2Proof.Machine

/-- The first 64 primes. -/
def firstPrimes : Vector Nat 64 :=
  #v[2, 3, 5, 7, 11, 13, 17, 19, 23, 29, 31, 37, 41, 43, 47, 53, 59, 61, 67, 71, 73, 79, 83, 89, 97, 101, 103, 107, 109,
    113, 127, 131, 137, 139, 149, 151, 157, 163, 167, 173, 179, 181, 191, 193, 197, 199, 211, 223, 227, 229, 233, 239,
    241, 251, 257, 263, 269, 271, 277, 281, 283, 293, 307, 311]

theorem firstPrimes_strictMono : StrictMono fun i : Fin 64 => firstPrimes[i] :=
  Fin.strictMono_iff_lt_succ.2 (by decide)

/-- No number from 2 to 17 whose square is at most `x` divides `x`. -/
def passesTrialDivision (x : Nat) : Bool :=
  2 ≤ x && (List.range 18).all fun d => d < 2 || x < d * d || x % d != 0

/-- Trial division by the numbers up to 17 decides primality below `18 ^ 2`. -/
theorem prime_iff_passesTrialDivision {x : Nat} (hx : x < 18 ^ 2) : x.Prime ↔ passesTrialDivision x = true := by
  simp only [Nat.prime_def_le_sqrt, passesTrialDivision, Bool.and_eq_true, decide_eq_true_eq, List.all_eq_true,
    List.mem_range, Bool.or_eq_true, bne_iff_ne]
  refine and_congr_right fun _ => ⟨fun h d _ => ?_, fun h d hd hdx => ?_⟩
  · by_cases hd : 2 ≤ d ∧ d * d ≤ x
    · exact .inr fun hmod => h d hd.1 (Nat.le_sqrt.2 hd.2) (Nat.dvd_of_mod_eq_zero hmod)
    · exact .inl (by omega)
  · have hdd := Nat.le_sqrt.1 hdx
    obtain (hlt | hlt) | hmod := h d (by nlinarith)
    · omega
    · omega
    · exact fun hdvd => hmod (Nat.mod_eq_zero_of_dvd hdvd)

/-- Below 312 the numbers that pass are those of the list, checked in 12 rows of 26. -/
theorem passesTrialDivision_eq_contains : ∀ (a : Fin 12) (b : Fin 26),
    passesTrialDivision (26 * a.val + b.val) = firstPrimes.toList.contains (26 * a.val + b.val) := by
  decide

theorem prime_iff_mem_firstPrimes {x : Nat} (hx : x < 312) : x.Prime ↔ ∃ i : Fin 64, firstPrimes[i] = x := by
  have hcheck := passesTrialDivision_eq_contains ⟨x / 26, by omega⟩ ⟨x % 26, Nat.mod_lt _ (by decide)⟩
  simp only [Nat.div_add_mod] at hcheck
  rw [prime_iff_passesTrialDivision (by omega), hcheck, List.contains_iff_mem, Vector.mem_toList_iff,
    Vector.mem_iff_getElem]
  exact ⟨fun ⟨i, hi, e⟩ => ⟨⟨i, hi⟩, e⟩, fun ⟨i, e⟩ => ⟨i.val, i.isLt, e⟩⟩

/-- Of the values of an increasing sequence exactly `t` lie below the one at place `t`. -/
theorem count_of_strictMono {n : Nat} {P : Nat → Prop} [DecidablePred P] {f : Fin n → Nat} (hf : StrictMono f)
    (t : Fin n) (hP : ∀ x < f t, P x ↔ ∃ i, f i = x) : Nat.count P (f t) = t.val := by
  have hbelow : (Finset.range (f t)).filter P = (Finset.Iio t).image f := by
    ext x
    simp only [Finset.mem_filter, Finset.mem_range, Finset.mem_image, Finset.mem_Iio]
    constructor
    · rintro ⟨hx, hp⟩
      obtain ⟨i, rfl⟩ := (hP x hx).1 hp
      exact ⟨i, hf.lt_iff_lt.1 hx, rfl⟩
    · rintro ⟨i, hi, rfl⟩
      exact ⟨hf hi, (hP _ (hf hi)).2 ⟨i, rfl⟩⟩
  rw [Nat.count_eq_card_filter_range, hbelow, Finset.card_image_of_injective _ hf.injective, Fin.card_Iio]

theorem firstPrimes_lt (t : Fin 64) : firstPrimes[t] < 312 := by
  revert t
  decide

/-- Entry `t` of the list is the prime with `t` primes below it. -/
theorem firstPrimes_spec (t : Fin 64) :
    (firstPrimes[t]).Prime ∧ Nat.count Nat.Prime firstPrimes[t] = t.val :=
  ⟨(prime_iff_mem_firstPrimes (firstPrimes_lt t)).2 ⟨t, rfl⟩,
    count_of_strictMono firstPrimes_strictMono t fun _ hx => prime_iff_mem_firstPrimes (hx.trans (firstPrimes_lt t))⟩

/-! The roots, scaled by `2 ^ 32`: their integer part is at most 6, and the constant is the rest. -/

theorem iv_isSquareRoot : ∀ i : Fin 8, ∃ c : Fin 7,
    (c.val * 2 ^ 32 + iv[i].toNat) ^ 2 ≤ firstPrimes[i.castLE (by decide : 8 ≤ 64)] * 2 ^ 64 ∧
    firstPrimes[i.castLE (by decide : 8 ≤ 64)] * 2 ^ 64 < (c.val * 2 ^ 32 + iv[i].toNat + 1) ^ 2 := by
  decide

theorem kRom_isCubeRoot : ∀ t : Fin 64, ∃ c : Fin 7,
    (c.val * 2 ^ 32 + kRom[t].toNat) ^ 3 ≤ firstPrimes[t] * 2 ^ 96 ∧
    firstPrimes[t] * 2 ^ 96 < (c.val * 2 ^ 32 + kRom[t].toNat + 1) ^ 3 := by
  decide

theorem toNat_eq_fraction (x : Word) (c : Nat) : x.toNat = (c * 2 ^ 32 + x.toNat) % 2 ^ 32 := by
  rw [Nat.mul_add_mod', Nat.mod_eq_of_lt x.isLt]

/-- Settles O30: the primes by trial division, the roots by their bounds. -/
theorem constantsFromPrimes : Obligations.ConstantsFromPrimes := by
  unfold Obligations.ConstantsFromPrimes
  constructor
  · intro i
    obtain ⟨c, hlow, hhigh⟩ := iv_isSquareRoot i
    obtain ⟨hprime, hcount⟩ := firstPrimes_spec (i.castLE (by decide))
    exact ⟨_, _, hprime, hcount, hlow, hhigh, toNat_eq_fraction _ _⟩
  · intro t
    obtain ⟨c, hlow, hhigh⟩ := kRom_isCubeRoot t
    obtain ⟨hprime, hcount⟩ := firstPrimes_spec t
    exact ⟨_, _, hprime, hcount, hlow, hhigh, toNat_eq_fraction _ _⟩

/-! ### The reference digests (95_test_vectors.md L1.1) -/

set_option maxRecDepth 4000 in
/-- Settles O38: the reference function is run by the kernel on the three messages. -/
theorem referenceDigests : Obligations.ReferenceDigests := by
  unfold Obligations.ReferenceDigests
  refine ⟨?abc, ?empty, ?twoBlocks⟩
  case abc => decide
  case empty => decide
  case twoBlocks => decide

end Sys2Proof.Machine

/-! ### The word functions bit by bit (40_word_ops.md R91 to R99) -/

namespace Sys2Proof.Machine

/-- Rotating on to the full 32 places gives the word back. -/
theorem rotr_rotr (x : Word) {n : Nat} (hn : 0 < n) (hn' : n < 32) : rotr (rotr x n) (32 - n) = x := by
  apply BitVec.eq_of_getLsbD_eq
  intro i hi
  rw [getLsbD_rotr _ _ i (by omega) hi, getLsbD_rotr _ _ _ hn' (Nat.mod_lt _ (by decide)),
    show ((i + (32 - n)) % 32 + n) % 32 = i by omega]

theorem toNat_rotr (x : Word) (n : Nat) :
    (rotr x n).toNat = (x.toNat / 2 ^ n ||| x.toNat * 2 ^ (32 - n) % 2 ^ 32) := by
  rw [rotr, BitVec.toNat_or, BitVec.toNat_ushiftRight, BitVec.toNat_shiftLeft, Nat.shiftRight_eq_div_pow,
    Nat.shiftLeft_eq]

/-- Settles O10: the formula as numbers, the bits from `getLsbD_rotr`, and the inverse from the bits. -/
theorem rotrRotatesRight : Obligations.RotrRotatesRight := by
  unfold Obligations.RotrRotatesRight
  exact fun x n hn => ⟨toNat_rotr x n, fun i hi => getLsbD_rotr x n i hn hi, rotr_zero x, fun h => rotr_rotr x h hn⟩

theorem getLsbD_ch (x y z : Word) {i : Nat} (hi : i < 32) :
    (ch x y z).getLsbD i = if x.getLsbD i then y.getLsbD i else z.getLsbD i := by
  rw [ch, BitVec.getLsbD_xor, BitVec.getLsbD_and, BitVec.getLsbD_and, BitVec.getLsbD_not, decide_eq_true hi]
  cases x.getLsbD i <;> simp

/-- The two terms of `ch` share no set bit. -/
theorem ch_eq_or (x y z : Word) : ch x y z = ((x &&& y) ||| (~~~x &&& z)) := by
  apply BitVec.eq_of_getLsbD_eq
  intro i hi
  rw [getLsbD_ch x y z hi, BitVec.getLsbD_or, BitVec.getLsbD_and, BitVec.getLsbD_and, BitVec.getLsbD_not,
    decide_eq_true hi]
  cases x.getLsbD i <;> simp

theorem getLsbD_maj_iff (x y z : Word) (i : Nat) :
    (maj x y z).getLsbD i = true ↔ 2 ≤ [x, y, z].countP (fun w => w.getLsbD i) := by
  rw [maj, BitVec.getLsbD_xor, BitVec.getLsbD_xor, BitVec.getLsbD_and, BitVec.getLsbD_and, BitVec.getLsbD_and,
    List.countP_cons, List.countP_cons, List.countP_cons, List.countP_nil]
  cases x.getLsbD i <;> cases y.getLsbD i <;> cases z.getLsbD i <;> decide

/-- Settles O12: the formulas are the definitions, and a bit of each is a truth table. -/
theorem chSelectsAndMajVotes : Obligations.ChSelectsAndMajVotes := by
  unfold Obligations.ChSelectsAndMajVotes
  exact fun x y z => ⟨rfl, rfl, ch_eq_or x y z, fun i hi => ⟨getLsbD_ch x y z hi, getLsbD_maj_iff x y z i⟩⟩

/-- A sum modulo 2 of three rotations, bit by bit. -/
theorem getLsbD_rotr_xor_rotr (x y : Word) {a b i : Nat} (ha : a < 32) (hb : b < 32) (hi : i < 32) :
    (rotr x a ^^^ rotr x b ^^^ y).getLsbD i =
      (x.getLsbD ((i + a) % 32) ^^ x.getLsbD ((i + b) % 32) ^^ y.getLsbD i) := by
  rw [BitVec.getLsbD_xor, BitVec.getLsbD_xor, getLsbD_rotr x a i ha hi, getLsbD_rotr x b i hb hi]

/-- Settles O13: each sigma is two rotations and a third term, which is a rotation or a shift. -/
theorem sigmaBits : Obligations.SigmaBits := by
  unfold Obligations.SigmaBits
  refine ⟨fun x => ⟨rfl, rfl, rfl, rfl⟩, fun x i hi => ⟨?_, ?_, ?_, ?_⟩⟩
  · rw [bigSigma0, getLsbD_rotr_xor_rotr x _ (by decide) (by decide) hi, getLsbD_rotr x 22 i (by decide) hi]
  · rw [bigSigma1, getLsbD_rotr_xor_rotr x _ (by decide) (by decide) hi, getLsbD_rotr x 25 i (by decide) hi]
  · rw [smallSigma0, getLsbD_rotr_xor_rotr x _ (by decide) (by decide) hi, getLsbD_shr, Nat.add_comm 3]
  · rw [smallSigma1, getLsbD_rotr_xor_rotr x _ (by decide) (by decide) hi, getLsbD_shr, Nat.add_comm 10]

theorem toNat_addMod (xs : List Word) : (addMod xs).toNat = (xs.map BitVec.toNat).sum % 2 ^ 32 :=
  BitVec.toNat_ofNat _ _

theorem foldl_add_eq_addMod (xs : List Word) (a : Word) : xs.foldl (· + ·) a = a + addMod xs := by
  induction xs generalizing a with
  | nil => exact (BitVec.add_zero a).symm
  | cons x xs ih => rw [List.foldl_cons, ih, addMod_cons, BitVec.add_assoc]

theorem addMod_perm {xs ys : List Word} (h : xs.Perm ys) : addMod ys = addMod xs := by
  rw [addMod, addMod, (h.map BitVec.toNat).sum_eq]

/-- Settles O14: `addMod` is one reduction of a sum, which no order changes. -/
theorem addModSumsModulo : Obligations.AddModSumsModulo := by
  unfold Obligations.AddModSumsModulo
  exact fun xs => ⟨toNat_addMod xs, ((foldl_add_eq_addMod xs 0).trans (BitVec.zero_add _)).symm,
    fun _ h => addMod_perm h⟩

/-! ### The digest string (43_digest_format.md R151 to R156) -/

/-- Ten digits and six letters, of either case, are 16 different codes. -/
theorem hexchar_injective (u : Bool) {v w : BitVec 4} (h : hexchar v u = hexchar w u) : v = w := by
  have hv := v.isLt
  have hw := w.isLt
  have code (x : BitVec 4) : (hexchar x u).toNat =
      if x.toNat ≤ 9 then 0x30 + x.toNat else (if u then 0x41 else 0x61) + (x.toNat - 10) := by
    split
    · next hx => exact toNat_hexchar_of_le hx u
    · next hx =>
      obtain ⟨hlower, hupper⟩ := toNat_hexchar_of_ge (Nat.not_le.1 hx)
      cases u
      · exact hlower
      · exact hupper
  have hcode := congrArg BitVec.toNat h
  rw [code, code] at hcode
  apply BitVec.eq_of_toNat_eq
  cases u <;> simp only [if_true, Bool.false_eq_true, if_false] at hcode <;> (repeat' split at hcode) <;> omega

/-- A State is its 64 digits. -/
theorem hash_ext_digits {h h' : Hash} (hd : ∀ i, hexDigit h i = hexDigit h' i) : h = h' := by
  apply Vector.ext
  intro w hw
  apply BitVec.eq_of_getLsbD_eq
  intro b hb
  have hdigit := congrArg (fun v => v.getLsbD (b % 4)) (hd ⟨8 * w + (7 - b / 4), by omega⟩)
  have hword : (8 * w + (7 - b / 4)) / 8 = w := by omega
  have hbit : 28 - 4 * ((8 * w + (7 - b / 4)) % 8) + b % 4 = b := by omega
  have hlt : b % 4 < 4 := Nat.mod_lt _ (by decide)
  simpa only [hexDigit, BitVec.getLsbD_extractLsb', hword, hbit, decide_eq_true hlt, Bool.true_and] using hdigit

theorem hexText_injective {h h' : Hash} {u : Bool} (e : hexText h u = hexText h' u) : h = h' :=
  hash_ext_digits fun i => hexchar_injective u (List.map_inj_left.1 e i (List.mem_finRange i))

/-- A raw digest byte is two adjacent digits, the first the more significant (R156). -/
theorem digestByte_eq_digits (h : Hash) {n : Fin 32} {i j : Fin 64} (hi : i.val = 2 * n.val)
    (hj : j.val = 2 * n.val + 1) : digestByte h n = (hexDigit h i ++ hexDigit h j : BitVec 8) := by
  have hwi : i.val / 8 = n.val / 4 := by omega
  have hwj : j.val / 8 = n.val / 4 := by omega
  have hlow : 28 - 4 * (j.val % 8) = 24 - 8 * (n.val % 4) := by omega
  have hhigh : 28 - 4 * (i.val % 8) = 24 - 8 * (n.val % 4) + 4 := by omega
  simp only [digestByte, hexDigit, hwi, hwj, hlow, hhigh]
  rw [BitVec.extractLsb'_append_extractLsb'_eq_extractLsb' (by rfl)]

/-- Settles O41: the string is its digits' codes, and the digits are the State. -/
theorem digestTextDeterminesTheState : Obligations.DigestTextDeterminesTheState := by
  unfold Obligations.DigestTextDeterminesTheState
  exact ⟨fun h h' u => ⟨hexText_length h u, hexText_injective⟩, fun h n i j hi hj => digestByte_eq_digits h hi hj⟩

end Sys2Proof.Machine
